-- ==== Sys2Proof/Word.lean ====
section
/-! DEFINITION. The word types of FVAL (rule R10: every value is unsigned, arithmetic is modulo 2^N). -/

namespace Sys2Proof

/-- A stream, frame or command byte (u8). -/
abbrev Byte := BitVec 8

/-- A checksum, a frame index or a frame length (u16). -/
abbrev Half := BitVec 16

/-- A host bus word (u32). -/
abbrev Word := BitVec 32

/-- A host bus byte address (u17, rule R70). -/
abbrev Addr := BitVec 17

end Sys2Proof
end

