-- ==== Sys2Proof/Config.lean ====
section
/-! DEFINITION. What an implementation of FVAL fixes (rule R8), and the free values the spec leaves open. -/

namespace Sys2Proof

/-- The implementation parameters the rules read (rule R8). A machine holds one value of it, which no step changes
(log 5). -/
structure Config where
  /-- `FBUF_BYTES`: the size of the frame buffer in bytes (rule R8, decision D5). -/
  fbufBytes : Nat
  /-- `CRC16_INIT`: the initial register of CRC16, an OPEN parameter (rules R8, R114, decision D16). -/
  crc16Init : Half
deriving DecidableEq, Repr

/-- The default parameters of rule R8. -/
def Config.default : Config := { fbufBytes := 65536, crc16Init := 0xFFFF }

/-- The range of rule R8: `FBUF_BYTES` is any integer 264..65536; `CRC16_INIT` is any u16. -/
def Config.wf (c : Config) : Bool := decide (264 ≤ c.fbufBytes) && decide (c.fbufBytes ≤ 65536)

/-- FREE VALUE (entry U1, rule R75; log 6). The byte that lane `n % 4` of the host's read number `n / 4` returns where the
block has not written the byte since reset: a free draw of its own for each lane of each read. -/
opaque Config.freeByte : Nat → Byte

/-- `FVAL_BASE`: the block's base address in the platform's map (rule R82, entry U15; log 12). OPEN, and no rule depends
on its value. -/
opaque Config.fvalBase : Nat

/-- The platform address of a block offset: every host address of the spec is relative to `FVAL_BASE` (rule R82). -/
def Config.platformAddress (offset : Addr) : Nat := Config.fvalBase + offset.toNat

end Sys2Proof
end

