-- ==== Sys2Proof/Syntax.lean ====
section
/-! DEFINITION. The operations of FVAL (rules R90 to R96, R105; one constructor for each row of the opcode table) and the
ports that carry them (rule R56). -/

namespace Sys2Proof

/-- The nine operations a model of FVAL steps on (rules R2, R90, R105). -/
inductive Instr where
  /-- STREAM_BYTE: one byte on the stream port (rules R91, R174). -/
  | streamByte (b : Byte)
  /-- CSR_READ: a host read of one 32-bit word (rules R92, R220). -/
  | csrRead (addr : Addr)
  /-- CSR_WRITE: a host write of one 32-bit word (rules R92, R221). -/
  | csrWrite (addr : Addr) (data : Word)
  /-- NOP: the CMD word 0x0000_0000 (rules R94, R230). -/
  | nop
  /-- ABORT: the CMD word 0x0000_0001 (rules R94, R231). -/
  | abort
  /-- RELEASE: the CMD word 0x0000_0002 (rules R94, R232). -/
  | release
  /-- CLR_COUNTERS: the CMD word 0x0000_0003 (rules R94, R233). -/
  | clrCounters
  /-- CK_INIT: the CMD words 0x0000_0010 with the algorithm in bits 9:8 (rules R94, R125). The code 3 matches the row and
  is reserved (rules R94, R95): the operation exists and is answered with BUS_ERR. -/
  | ckInit (alg : BitVec 2)
  /-- CK_BYTE: the CMD words 0x0000_0011 with the data byte in bits 15:8 (rules R94, R126). -/
  | ckByte (b : Byte)
deriving DecidableEq, Repr

/-- One host bus access, the `bus` input of a step when it is not none (rules R56, R71, R92). -/
inductive BusAccess where
  | read (addr : Addr)
  | write (addr : Addr) (data : Word)
deriving DecidableEq, Repr

/-- What one port carries in a step: a byte on the stream port, or an access on the host bus (rule R90). -/
inductive PortWord where
  | stream (b : Byte)
  | bus (a : BusAccess)
deriving DecidableEq, Repr

end Sys2Proof
end

