-- ==== Sys2Proof/Machine/State.lean ====
section
/-! DEFINITION. The state of one FVAL instance (rule R22), its reset value (rules R58, R281), and the reasons a step can
stop. -/

namespace Sys2Proof.Machine

/-- The phases of the frame state machine; code 7 is never taken (rule R170). -/
inductive Phase where
  | awaitingHeader
  | headerParsed
  | parsingCells
  | awaitingFooter
  | awaitingChecksum
  | complete
  | faulted
deriving DecidableEq, Repr

/-- The checksum algorithms: 0 CRC-CCITT, 1 CRC16, 2 XOR-sum (rule R4). Code 3 has no function and can never be latched
(rule R117), so it is no value here (log 10). -/
inductive CkAlg where
  | ccitt
  | crc16
  | xorSum
deriving DecidableEq, Repr

/-- The frame types: 0 Configuration, 1 Data, 2 Header, 3 Command (rule R205). -/
inductive FrameType where
  | configuration
  | data
  | header
  | command
deriving DecidableEq, Repr

/-- The stream events, codes 0..3 (rule R251). -/
inductive StreamEvent where
  | frameOk
  | checksumMismatch
  | malformedHeader
  | unknownProtocol
deriving DecidableEq, Repr

/-- The kinds of a fault entry: the stream events that are errors (rules R250, R262). -/
inductive ErrorKind where
  | checksumMismatch
  | malformedHeader
  | unknownProtocol
deriving DecidableEq, Repr

/-- The reason codes 0..6 of ERR_DETAIL; 7..15 are never written (rule R252, entry U9). -/
inductive ErrReason where
  | none
  | badSync
  | unknownSignature
  | badVersion
  | lengthTooSmall
  | lengthTooLarge
  | checksumMismatch
deriving DecidableEq, Repr

/-- The five event counters (rules R39, R264). -/
inductive Counter where
  | framesOk
  | cksumErr
  | malformed
  | unknown
  | skipped
deriving DecidableEq, Repr

/-- The header capture registers behind HDR0..HDR_FRAC (rules R32 to R35). -/
structure Header where
  /-- SYNC, byte 0 -/
  sync : Byte
  /-- TV, byte 1 -/
  tv : Byte
  /-- FLEN, bytes 2..3 -/
  flen : Half
  /-- IDC, bytes 4..5 -/
  idc : Half
  /-- CELLS, the cell count of a configuration frame -/
  cells : Half
  /-- SOC, bytes 6..9 -/
  soc : Word
  /-- FRAC, bytes 10..H-1 -/
  frac : Word
deriving DecidableEq, Repr

/-- Every header capture register 0 (rule R58). -/
def Header.zero : Header := { sync := 0, tv := 0, flen := 0, idc := 0, cells := 0, soc := 0, frac := 0 }

/-- The latched frame context (rule R53). -/
structure Context where
  /-- VAR, the dispatched variant, 0..4 -/
  var : Fin 5
  /-- FTYPE -/
  ftype : FrameType
  /-- C_ALG -/
  alg : CkAlg
  /-- C_FRAC, 0..2 -/
  frac : Fin 3
  /-- C_FOOT, 0..2 -/
  foot : Fin 3
  /-- C_ORD: false is 0, the checksum is sent high byte first -/
  ord : Bool
  /-- C_OFF -/
  off : Byte
deriving DecidableEq, Repr

/-- Every field of the latched context 0 (rules R53, R58). -/
def Context.zero : Context :=
  { var := 0, ftype := .configuration, alg := .ccitt, frac := 0, foot := 0, ord := false, off := 0 }

/-- The running checksums of the current frame (rule R49). -/
structure Accumulators where
  /-- ACC_CC -/
  cc : Half
  /-- ACC_16 -/
  c16 : Half
  /-- ACC_X -/
  x : Half
deriving DecidableEq, Repr

/-- The last error, ERR_DETAIL (rule R30). -/
structure ErrDetail where
  /-- ERR_REASON -/
  reason : ErrReason
  /-- ERR_BYTE -/
  byte : Byte
  /-- ERR_IDX -/
  idx : Half
deriving DecidableEq, Repr

/-- The event counters (rule R39). -/
structure Counters where
  /-- CNT_FRAMES_OK -/
  framesOk : Word
  /-- CNT_CKSUM_ERR -/
  cksumErr : Word
  /-- CNT_MALFORMED -/
  malformed : Word
  /-- CNT_UNKNOWN -/
  unknown : Word
  /-- CNT_SKIPPED -/
  skipped : Word
deriving DecidableEq, Repr

/-- The standalone checksum engine (rule R124). -/
structure Engine where
  /-- CK_ALG -/
  alg : CkAlg
  /-- CK_ACC -/
  acc : Half
  /-- CK_CNT -/
  cnt : Word
deriving DecidableEq, Repr

/-- One entry of the dispatch table, LUT_SIG[i] (rule R42). Bits 7:4 hold nothing, and VARIANT holds only the legal values
0..4, since a write of another keeps the old one (rule R47; log 10). -/
structure LutEntry where
  /-- VALID -/
  valid : Bool
  /-- VARIANT -/
  variant : Fin 5
  /-- SYNC -/
  sync : Byte
  /-- NIBBLE_MASK -/
  nibbleMask : Half
deriving DecidableEq, Repr

/-- The parameters of a variant, VDESC_CFG[v] (rule R43). Bit 7 holds nothing, and the three WARL fields hold only their
legal values 0..2 (rule R47; log 10). -/
structure VariantCfg where
  /-- CK_ALG -/
  alg : CkAlg
  /-- FRAC_CODE -/
  frac : Fin 3
  /-- FOOT_LEN -/
  foot : Fin 3
  /-- CK_ORDER -/
  order : Bool
  /-- CELLCNT_OFF -/
  off : Byte
  /-- VERSION_MASK -/
  versionMask : Half
deriving DecidableEq, Repr

/-- The outputs of one step (rule R57). -/
structure Outputs where
  /-- in_ready -/
  inReady : Bool
  /-- frame_avail -/
  frameAvail : Bool
  /-- irq -/
  irq : Bool
  /-- ev_valid -/
  evValid : Bool
  /-- ev_code -/
  evCode : BitVec 2
  /-- variant -/
  variant : BitVec 3
  /-- rdata; none in a step without a read, for which rule R57 names no value (log 4) -/
  rdata : Option Word
deriving DecidableEq, Repr

/-- The outputs of a step with rst = 1 (rule R283). -/
def Outputs.reset : Outputs :=
  { inReady := false, frameAvail := false, irq := false, evValid := false, evCode := 0, variant := 0, rdata := some 0 }

/-- FBUF: the written bytes with their offsets, strictly rising. An offset that is not listed is unwritten (rule R54). -/
abbrev Memory := List Host.Cell

/-- One line of the environment's inputs (rules R56, R103): the inputs of one step. With `hold` the stream source keeps
offering the line's byte until it is taken (the `byte` line of rule R103); without it the byte is
offered in this step only (log 1, log 2). -/
structure Line where
  /-- rst -/
  rst : Bool
  /-- in_valid and in_data -/
  byte : Option Byte
  /-- bus -/
  bus : Option BusAccess
  /-- whether the source keeps its byte until it is taken -/
  hold : Bool
deriving DecidableEq, Repr

/-- The state of the machine: the record of rule R22, and after it the model's own fields. -/
structure State where
  /-- EN (rule R25) -/
  en : Bool
  /-- IRQ_EN (rule R28) -/
  irqEn : BitVec 6
  /-- EVENTS (rule R27) -/
  events : BitVec 6
  /-- PH (rule R170) -/
  ph : Phase
  /-- IDX (rules R21, R37) -/
  idx : Half
  /-- LOCKED (rule R31) -/
  locked : Bool
  /-- RQ (rule R51) -/
  rq : List Byte
  /-- SYNC, TV, FLEN, IDC, CELLS, SOC, FRAC (rules R32 to R35) -/
  hdr : Header
  /-- VAR, FTYPE, C_ALG, C_FRAC, C_FOOT, C_ORD, C_OFF (rule R53) -/
  ctx : Context
  /-- ACC_CC, ACC_16, ACC_X (rule R49) -/
  acc : Accumulators
  /-- CKR0 (rule R50) -/
  ckr0 : Byte
  /-- CK_COMP (rule R36) -/
  ckComp : Half
  /-- CK_RECV (rule R36) -/
  ckRecv : Half
  /-- ERR_REASON, ERR_BYTE, ERR_IDX (rule R30) -/
  err : ErrDetail
  /-- CNT_OK, CNT_CK, CNT_MAL, CNT_UNK, CNT_SKIP (rule R39) -/
  cnt : Counters
  /-- CK_ALG, CK_ACC, CK_CNT (rule R124) -/
  engine : Engine
  /-- LUT (rule R42) -/
  lut : Vector LutEntry 8
  /-- VCFG (rule R43) -/
  vcfg : Vector VariantCfg 5
  /-- VTMAP (rule R44) -/
  vtmap : Vector Word 5
  /-- FBUF (rule R54) -/
  fbuf : Memory
  /-- EVQ (rule R52) -/
  evq : Option StreamEvent
  /-- the model's own: the parameters of rule R8 (log 5) -/
  cfg : Config
  /-- the model's own: the byte the stream source keeps on the port (rules R56, R297; log 1) -/
  offer : Option Byte
  /-- the model's own: the inputs still to come, oldest first (rule R56; log 1) -/
  script : List Line
  /-- the model's own: the outputs of the last step (rule R57; log 4) -/
  out : Outputs
  /-- the model's own: the number of host reads made, the index of their free bytes (rule R75; log 6) -/
  draws : Nat
deriving DecidableEq, Repr

/-- LUT_SIG[i] at reset: 0 (rule R42). -/
def LutEntry.reset : LutEntry := { valid := false, variant := 0, sync := 0, nibbleMask := 0 }

/-- VDESC_CFG[v] at reset: 0xFFFF_0000 (rule R43). -/
def VariantCfg.reset : VariantCfg :=
  { alg := .ccitt, frac := 0, foot := 0, order := false, off := 0, versionMask := 0xFFFF }

/-- The machine right after reset: rule R58 field by field, with the default parameters, no input to come and the outputs
of a step with rst = 1 (logs 1, 4, 5, 6, 11). -/
def State.reset : State :=
  { en := false
    irqEn := 0
    events := 0
    ph := .awaitingHeader
    idx := 0
    locked := false
    rq := []
    hdr := Header.zero
    ctx := Context.zero
    acc := { cc := 0, c16 := 0, x := 0 }
    ckr0 := 0
    ckComp := 0
    ckRecv := 0
    err := { reason := .none, byte := 0, idx := 0 }
    cnt := { framesOk := 0, cksumErr := 0, malformed := 0, unknown := 0, skipped := 0 }
    engine := { alg := .ccitt, acc := 0xFFFF, cnt := 0 }
    lut := Vector.replicate 8 LutEntry.reset
    vcfg := Vector.replicate 5 VariantCfg.reset
    vtmap := Vector.replicate 5 0
    fbuf := []
    evq := none
    cfg := Config.default
    offer := none
    script := []
    out := Outputs.reset
    draws := 0 }

/-- The reasons a step stops with a fault. The spec has none: every error of FVAL is an event after which the block goes on
(rules R250, R274). -/
inductive Fault where
  /-- Raised where the block would write a frame byte at an FBUF offset that does not exist. Rule R73 says that this never
  happens, and no state that meets `State.Inv` reaches it. SAFE: the model stops where the spec gives no effect (log 7). -/
  | fbufWriteBeyondEnd
deriving DecidableEq, Repr

/-- The reasons a step is refused. No operation of FVAL is refused: each has its meaning. -/
inductive Refusal where
  /-- Raised by `exec` for an operation without a meaning; no arm raises it. SAFE. -/
  | notModelled (mnemonic : String)
deriving DecidableEq, Repr

/-- The outcome of a step of this machine. -/
abbrev StepOutcome := Host.Outcome State Fault Refusal

end Sys2Proof.Machine
end

