-- ==== Sys2Proof/Machine/Ops.lean ====
section
/-! DEFINITION. The named operations over the frame buffer, the counters and the fault entry and recovery. -/

namespace Sys2Proof.Machine

/-! ## The frame buffer (rules R54, R73, R75) -/

/-- What an offset that is not listed holds: no value. It is unwritten, and only a host read gives it a free one (rules R54,
R75; log 6). -/
def Memory.unlisted : Option Byte := none

/-- The byte the block wrote last at an offset, or none where it wrote none since reset (rule R54). -/
def Memory.read : Memory → Nat → Option Byte
  | [], _ => Memory.unlisted
  | (k, v) :: m, a => if a = k then some v else Memory.read m a

/-- `FBUF[a] <- b`, keeping the offsets strictly rising (rule R73). No written byte equals what an unlisted offset holds, so
a write never removes an entry. -/
def Memory.write : Memory → Nat → Byte → Memory
  | [], a, b => [(a, b)]
  | (k, v) :: m, a, b =>
    if a < k then (a, b) :: (k, v) :: m
    else if a = k then (a, b) :: m
    else (k, v) :: Memory.write m a b

/-- Every listed offset lies above `lo`, and the offsets rise strictly. -/
def Memory.risingAbove : Nat → Memory → Bool
  | _, [] => true
  | lo, (k, _) :: m => decide (lo < k) && Memory.risingAbove k m

/-- The canonical form: the listed offsets rise strictly. No entry can equal what an unlisted offset holds, which is no
byte. -/
def Memory.wf : Memory → Bool
  | [] => true
  | (k, _) :: m => Memory.risingAbove k m

/-- Every listed offset lies below `n`. -/
def Memory.below (n : Nat) (m : Memory) : Bool := m.all fun c => decide (c.1 < n)

/-- `MemWrite(j, 1, b)` at the frame index of the byte being accepted (rules R12, R73). -/
def State.memWrite (s : State) (b : Byte) : State := { s with fbuf := s.fbuf.write s.idx.toNat b }

/-! ## The event counters (rules R39, R264) -/

/-- Add 1 to a counter, modulo 2^32 (rules R39, R264). -/
def Counters.bump (c : Counters) : Counter → Counters
  | .framesOk => { c with framesOk := c.framesOk + 1 }
  | .cksumErr => { c with cksumErr := c.cksumErr + 1 }
  | .malformed => { c with malformed := c.malformed + 1 }
  | .unknown => { c with unknown := c.unknown + 1 }
  | .skipped => { c with skipped := c.skipped + 1 }

/-- CLR_COUNTERS: every counter 0, but 1 where the step's stream part incremented it (rule R233). -/
def Counters.clear (inc : List Counter) : Counters :=
  let left (c : Counter) : Word := if c ∈ inc then 1 else 0
  { framesOk := left .framesOk
    cksumErr := left .cksumErr
    malformed := left .malformed
    unknown := left .unknown
    skipped := left .skipped }

/-! ## Fault entry and recovery (rules R262, R182) -/

/-- What the stream part of a step leaves: `s1`, the event `ev`, and the set `inc` of counters it incremented (rule R171). -/
structure StreamResult where
  st : State
  ev : Option StreamEvent
  inc : List Counter
deriving DecidableEq, Repr

/-- The stream event of an error kind (rules R251, R262). -/
def ErrorKind.event : ErrorKind → StreamEvent
  | .checksumMismatch => .checksumMismatch
  | .malformedHeader => .malformedHeader
  | .unknownProtocol => .unknownProtocol

/-- The counter of an error kind (rules R251, R262). -/
def ErrorKind.counter : ErrorKind → Counter
  | .checksumMismatch => .cksumErr
  | .malformedHeader => .malformed
  | .unknownProtocol => .unknown

/-- FAULT ENTRY, the `raise` primitive (rule R262): the phase becomes Faulted, the error is recorded, the replay goes in
front of the queue, LOCKED falls and the kind is counted. IDX keeps the failing index. -/
def raiseFault (s : State) (kind : ErrorKind) (reason : ErrReason) (b : Byte) (j : Half) (replay : List Byte) :
    StreamResult :=
  { st :=
      { s with
        ph := .faulted
        err := { reason := reason, byte := b, idx := j }
        rq := replay ++ s.rq
        locked := false
        cnt := s.cnt.bump kind.counter }
    ev := some kind.event
    inc := [kind.counter] }

/-- THE RETURN from a fault, the Faulted step (rule R182): back to hunting, whatever the inputs. -/
def faultRecover (s : State) : State := { s with ph := .awaitingHeader, idx := 0 }

end Sys2Proof.Machine
end

