-- ==== Sys2Proof/Machine/Operands.lean ====
section
/-! DEFINITION. Field codes and register words, the latched frame geometry, and the dispatch look-up. -/

namespace Sys2Proof.Machine

/-! ## Codes (rules R4, R170, R205, R251, R252) -/

/-- PH's code (rule R170). -/
def Phase.code : Phase → BitVec 3
  | .awaitingHeader => 0
  | .headerParsed => 1
  | .parsingCells => 2
  | .awaitingFooter => 3
  | .awaitingChecksum => 4
  | .complete => 5
  | .faulted => 6

/-- An algorithm's code (rule R4). -/
def CkAlg.code : CkAlg → BitVec 2
  | .ccitt => 0
  | .crc16 => 1
  | .xorSum => 2

/-- The algorithm of a legal code; 3 is reserved (rules R4, R47, R117). -/
def ckAlgOfCode (c : BitVec 2) : Option CkAlg :=
  if c = 0 then some .ccitt else if c = 1 then some .crc16 else if c = 2 then some .xorSum else none

/-- A frame type's code (rule R205). -/
def FrameType.code : FrameType → BitVec 2
  | .configuration => 0
  | .data => 1
  | .header => 2
  | .command => 3

/-- The frame type of a code (rules R44, R205). -/
def frameTypeOfCode (c : BitVec 2) : FrameType :=
  if c = 0 then .configuration else if c = 1 then .data else if c = 2 then .header else .command

/-- A stream event's code, and its EVENTS bit (rule R251). -/
def StreamEvent.code : StreamEvent → BitVec 2
  | .frameOk => 0
  | .checksumMismatch => 1
  | .malformedHeader => 2
  | .unknownProtocol => 3

/-- A reason's code (rule R252). -/
def ErrReason.code : ErrReason → BitVec 4
  | .none => 0
  | .badSync => 1
  | .unknownSignature => 2
  | .badVersion => 3
  | .lengthTooSmall => 4
  | .lengthTooLarge => 5
  | .checksumMismatch => 6

/-- The legal value 0..2 of a WARL field, none for the illegal 3 (rules R43, R47). -/
def warl3 (c : BitVec 2) : Option (Fin 3) := if h : c.toNat < 3 then some ⟨c.toNat, h⟩ else none

/-- The legal variant 0..4, none for the illegal 5..7 (rules R42, R47). -/
def warl5 (c : BitVec 3) : Option (Fin 5) := if h : c.toNat < 5 then some ⟨c.toNat, h⟩ else none

/-- A bit of a word, as the field it fills. -/
def bit (b : Bool) : Word := if b then 1 else 0

/-! ## Register words (rules R42, R43) -/

/-- LUT_SIG[i] as the host reads it (rule R42): bits 7:4 read 0. -/
def LutEntry.toWord (e : LutEntry) : Word :=
  bit e.valid ||| BitVec.ofNat 32 e.variant.val <<< 1 ||| e.sync.setWidth 32 <<< 8 ||| e.nibbleMask.setWidth 32 <<< 16

/-- VDESC_CFG[v] as the host reads it (rule R43): bit 7 reads 0. -/
def VariantCfg.toWord (c : VariantCfg) : Word :=
  c.alg.code.setWidth 32 ||| BitVec.ofNat 32 c.frac.val <<< 2 ||| BitVec.ofNat 32 c.foot.val <<< 4 |||
    bit c.order <<< 6 ||| c.off.setWidth 32 <<< 8 ||| c.versionMask.setWidth 32 <<< 16

/-- The entry a write of `d` leaves where `old` stood, and whether VARIANT was illegal and kept (rules R47, R225). -/
def LutEntry.written (old : LutEntry) (d : Word) : LutEntry × Bool :=
  let variant := warl5 (d.extractLsb' 1 3)
  ({ valid := d.getLsbD 0
     variant := variant.getD old.variant
     sync := d.extractLsb' 8 8
     nibbleMask := d.extractLsb' 16 16 },
   variant.isNone)

/-- The parameters a write of `d` leaves where `old` stood, and whether a WARL field was illegal and kept (rules R47,
R226). -/
def VariantCfg.written (old : VariantCfg) (d : Word) : VariantCfg × Bool :=
  let alg := ckAlgOfCode (d.extractLsb' 0 2)
  let frac := warl3 (d.extractLsb' 2 2)
  let foot := warl3 (d.extractLsb' 4 2)
  ({ alg := alg.getD old.alg
     frac := frac.getD old.frac
     foot := foot.getD old.foot
     order := d.getLsbD 6
     off := d.extractLsb' 8 8
     versionMask := d.extractLsb' 16 16 },
   alg.isNone || frac.isNone || foot.isNone)

/-! ## Frame geometry, from the latched context (rules R141, R146, R177) -/

/-- F, the timestamp fraction's width, 2..4 (rule R141). -/
def State.fracWidth (s : State) : Half := 2 + BitVec.ofNat 16 s.ctx.frac.val

/-- H, the header length, 12..14 (rules R141, R153). -/
def State.headerLen (s : State) : Half := 10 + s.fracWidth

/-- `cfg`: the frame is a Configuration frame (rule R141). -/
def State.isCfg (s : State) : Bool := s.ctx.ftype == .configuration

/-- C_OFF as a frame index. -/
def State.cellOff (s : State) : Half := s.ctx.off.setWidth 16

/-- The frame has a cell-count field (rules R141, R151). -/
def State.hasCells (s : State) : Bool := s.isCfg && decide (s.headerLen ≤ s.cellOff)

/-- BS, the body start (rule R141). -/
def State.bodyStart (s : State) : Half := if s.hasCells then s.cellOff + 2 else s.headerLen

/-- FOOT, the footer length (rule R141). -/
def State.footLen (s : State) : Half := if s.isCfg then BitVec.ofNat 16 s.ctx.foot.val else 0

/-- CS, the checksum start (rule R141). -/
def State.cksumStart (s : State) : Half := s.hdr.flen - 2

/-- FS, the footer start (rule R141). -/
def State.footStart (s : State) : Half := s.cksumStart - s.footLen

/-- Lmin, the minimum frame length (rule R146). -/
def State.minLen (s : State) : Half := s.bodyStart + s.footLen + 2

/-- `phase_of(i)`, the phase the frame byte at index `i >= 4` belongs to (rule R177). -/
def State.phaseOf (s : State) (i : Half) : Phase :=
  if i < s.headerLen then .awaitingHeader
  else if i < s.bodyStart then .headerParsed
  else if i < s.footStart then .parsingCells
  else if i < s.cksumStart then .awaitingFooter
  else .awaitingChecksum

/-! ## Dispatch (rules R98, R200, R202) -/

/-- The frame-type nibble of byte 1 (rule R98). -/
def typeNibble (t : Byte) : BitVec 4 := t.extractLsb' 4 4

/-- The version nibble of byte 1 (rule R98). -/
def versionNibble (t : Byte) : BitVec 4 := t.extractLsb' 0 4

/-- `cand(b)`: some valid LUT entry has this SYNC (rule R200). -/
def State.isCandidate (s : State) (b : Byte) : Bool := s.lut.toList.any fun e => e.valid && e.sync == b

/-- The entry takes part in the match of the signature (rule R202). -/
def LutEntry.matchesSignature (e : LutEntry) (sync : Byte) (nib : BitVec 4) : Bool :=
  e.valid && e.sync == sync && e.nibbleMask.getLsbD nib.toNat

/-- `lookup(y, n)`: the matching entry of the lowest index (rule R202). -/
def State.lookup (s : State) (sync : Byte) (nib : BitVec 4) : Option LutEntry :=
  s.lut.toList.find? fun e => e.matchesSignature sync nib

/-- The frame type that a nibble decodes to in a type map (rules R44, R205). -/
def typeOfNibble (tmap : Word) (nib : BitVec 4) : FrameType := frameTypeOfCode (tmap.extractLsb' (2 * nib.toNat) 2)

end Sys2Proof.Machine
end

