-- ==== Sys2Proof/Machine/Flags.lean ====
section
/-! DEFINITION. The status flags (rules R27, R55, R251, R260), the interrupt (rule R266) and the need-N-more report (rule
R184). -/

namespace Sys2Proof.Machine

/-- `evbit(ev)` (rule R171): the EVENTS bit of a stream event. -/
def evBit : Option StreamEvent → BitVec 6
  | none => 0
  | some e => 1 <<< e.code.toNat

/-- The BUS_ERR bit of EVENTS, bit 5 (rule R251). -/
def busErrBit (buserr : Bool) : BitVec 6 := if buserr then 1 <<< 5 else 0

/-- The event merge (rules R171, R260): what this step raises is set after what it clears. -/
def mergeEvents (events : BitVec 6) (ev : Option StreamEvent) (buserr : Bool) : BitVec 6 :=
  events ||| evBit ev ||| busErrBit buserr

/-- EVENTS after a write of `d`, write 1 to clear (rule R223). -/
def clearEvents (events : BitVec 6) (d : Word) : BitVec 6 := events &&& ~~~ d.extractLsb' 0 6

/-- The `irq` level (rule R266). -/
def State.irq (s : State) : Bool := s.events &&& s.irqEn != 0

/-- `in_ready` (rule R172). -/
def State.inReady (s : State) : Bool := s.en && s.rq.isEmpty && s.ph != .complete && s.ph != .faulted

/-- `need(s)`, STATUS.NEED (rule R184). -/
def State.need (s : State) : Half :=
  match s.ph with
  | .complete => 0
  | .faulted => 0
  | .awaitingHeader => if s.idx ≤ 1 then 1 else s.headerLen - s.idx
  | .headerParsed => s.bodyStart - s.idx
  | .parsingCells => s.footStart - s.idx
  | .awaitingFooter => s.cksumStart - s.idx
  | .awaitingChecksum => s.hdr.flen - s.idx

end Sys2Proof.Machine
end

