-- ==== Sys2Proof/Machine/Checksum.lean ====
section
/-! DEFINITION. The checksum algorithms and the frame's checksum datapath (rules R110 to R123). -/

namespace Sys2Proof.Machine

/-- One bit of the CRC-CCITT update (rule R111). -/
def ccittBit (c : Half) : Half := if c.getLsbD 15 then c <<< 1 ^^^ 0x1021 else c <<< 1

/-- `upd_ccitt(c, b)` (rule R111). -/
def updCcitt (c : Half) (b : Byte) : Half := Nat.repeat ccittBit 8 (c ^^^ b.setWidth 16 <<< 8)

/-- One bit of the CRC16 update (rule R113). -/
def crc16Bit (c : Half) : Half := if c.getLsbD 0 then c >>> 1 ^^^ 0xA001 else c >>> 1

/-- `upd_crc16(c, b)` (rule R113). -/
def updCrc16 (c : Half) (b : Byte) : Half := Nat.repeat crc16Bit 8 (c ^^^ b.setWidth 16)

/-- `upd_xor16(c, b, j)`, with `odd` the bit 0 of the position `j` (rule R115). -/
def updXor16 (c : Half) (b : Byte) (odd : Bool) : Half :=
  if odd then c ^^^ b.setWidth 16 else c ^^^ b.setWidth 16 <<< 8

/-- `init(alg)` (rule R117). -/
def Config.ckInit (cfg : Config) : CkAlg → Half
  | .ccitt => 0xFFFF
  | .crc16 => cfg.crc16Init
  | .xorSum => 0x0000

/-- `upd(alg, c, b, j)` (rule R117). -/
def ckUpd (alg : CkAlg) (c : Half) (b : Byte) (odd : Bool) : Half :=
  match alg with
  | .ccitt => updCcitt c b
  | .crc16 => updCrc16 c b
  | .xorSum => updXor16 c b odd

/-- The fold of a strategy over a sequence whose first byte stands at position `j`. -/
def ckFold (alg : CkAlg) : Half → Nat → List Byte → Half
  | c, _, [] => c
  | c, j, b :: bs => ckFold alg (ckUpd alg c b (j % 2 == 1)) (j + 1) bs

/-- `cks(alg, d)`, a strategy's value on a sequence (rules R110, R112, R114, R116, R117). -/
def cks (cfg : Config) (alg : CkAlg) (d : List Byte) : Half := ckFold alg (Config.ckInit cfg alg) 0 d

/-- The accumulators after the sync byte (rule R118). -/
def Accumulators.start (cfg : Config) (b : Byte) : Accumulators :=
  { cc := updCcitt 0xFFFF b, c16 := updCrc16 cfg.crc16Init b, x := updXor16 0x0000 b false }

/-- The accumulators after the byte at frame index `j` (rule R119). -/
def Accumulators.next (a : Accumulators) (b : Byte) (j : Half) : Accumulators :=
  { cc := updCcitt a.cc b, c16 := updCrc16 a.c16 b, x := updXor16 a.x b (j.getLsbD 0) }

/-- `accumulate(b, j)` at the index of the byte being accepted (rules R119, R152). -/
def State.accumulate (s : State) (b : Byte) : State := { s with acc := s.acc.next b s.idx }

/-- `ck_comp(s)`, the computed checksum: the accumulator of the latched algorithm (rule R120). -/
def State.computedCk (s : State) : Half :=
  match s.ctx.alg with
  | .ccitt => s.acc.cc
  | .crc16 => s.acc.c16
  | .xorSum => s.acc.x

/-- `ck_recv(s, b)`, the received checksum, assembled in the latched order (rules R78, R121). -/
def State.receivedCk (s : State) (b : Byte) : Half := if s.ctx.ord then b ++ s.ckr0 else s.ckr0 ++ b

end Sys2Proof.Machine
end

