-- ==== Sys2Proof/Machine/Header.lean ====
section
/-! DEFINITION. The frame-header parser and the body bytes, by frame index (rules R140 to R154). Each function is given the
byte and the state of the stream part so far, whose IDX is the byte's frame index. -/

namespace Sys2Proof.Machine

/-- A byte that raises nothing. -/
def StreamResult.quiet (s : State) : StreamResult := { st := s, ev := none, inc := [] }

/-- Byte 0, `sync_accept(b)` (rule R142): a new frame. -/
def syncAccept (s : State) (b : Byte) : StreamResult :=
  .quiet
    { s.memWrite b with
      hdr := { Header.zero with sync := b }
      ctx := Context.zero
      acc := Accumulators.start s.cfg b
      idx := 1
      ph := .awaitingHeader }

/-- The context latched from the descriptor of variant `v` (rules R143, R206). -/
def State.latched (s : State) (v : Fin 5) (nib : BitVec 4) : Context :=
  let c := s.vcfg[v]
  { var := v
    ftype := typeOfNibble s.vtmap[v] nib
    alg := c.alg
    frac := c.frac
    foot := c.foot
    ord := c.order
    off := c.off }

/-- Byte 1, the frame type / version byte and the dispatch (rules R143, R203, R204): UNKNOWN_SIGNATURE is tested first (rule
R259), TV takes the byte either way. -/
def byte1 (s : State) (b : Byte) : StreamResult :=
  let s' := { (s.memWrite b).accumulate b with hdr := { s.hdr with tv := b } }
  match s.lookup s.hdr.sync (typeNibble b) with
  | none => raiseFault s' .unknownProtocol .unknownSignature b 1 [b]
  | some e =>
    if s.vcfg[e.variant].versionMask.getLsbD (versionNibble b).toNat then
      .quiet { s' with ctx := s.latched e.variant (typeNibble b), idx := 2, ph := .awaitingHeader }
    else raiseFault s' .malformedHeader .badVersion b 1 [b]

/-- Byte 2, the length's high byte (rule R144). -/
def byte2 (s : State) (b : Byte) : StreamResult :=
  .quiet
    { (s.memWrite b).accumulate b with
      hdr := { s.hdr with flen := b.setWidth 16 <<< 8 }
      idx := 3
      ph := .awaitingHeader }

/-- Byte 3, the length's low byte and the length checks (rules R145, R146). FLEN keeps the declared value; a failed check
replays the frame bytes 1, 2 and 3. -/
def byte3 (s : State) (b : Byte) : StreamResult :=
  let s' := { (s.memWrite b).accumulate b with hdr := { s.hdr with flen := s.hdr.flen ||| b.setWidth 16 } }
  let replay := [s.hdr.tv, s.hdr.flen.extractLsb' 8 8, b]
  if s'.hdr.flen < s'.minLen then raiseFault s' .malformedHeader .lengthTooSmall b 3 replay
  else if s'.cfg.fbufBytes < s'.hdr.flen.toNat then raiseFault s' .malformedHeader .lengthTooLarge b 3 replay
  else .quiet { s' with idx := 4, ph := s'.phaseOf 4 }

/-- The header capture of the byte at index `j >= 4` (rules R147, R148, R149, R151). -/
def State.capture (s : State) (b : Byte) (j : Half) : Header :=
  let h := s.hdr
  let h := if j = 4 ∨ j = 5 then { h with idc := h.idc.extractLsb' 0 8 ++ b } else h
  let h := if 6 ≤ j ∧ j ≤ 9 then { h with soc := h.soc.extractLsb' 0 24 ++ b } else h
  let h := if 10 ≤ j ∧ j < s.headerLen then { h with frac := h.frac.extractLsb' 0 24 ++ b } else h
  if s.hasCells ∧ (j = s.cellOff ∨ j = s.cellOff + 1) then { h with cells := h.cells.extractLsb' 0 8 ++ b } else h

/-- Bytes 4..L-2, `body_byte(b, j)` (rule R152). -/
def bodyByte (s : State) (b : Byte) : StreamResult :=
  let j := s.idx
  .quiet
    { s.memWrite b with
      acc := if j < s.cksumStart then s.acc.next b j else s.acc
      hdr := s.capture b j
      ckr0 := if j = s.cksumStart then b else s.ckr0
      idx := j + 1
      ph := s.phaseOf (j + 1) }

end Sys2Proof.Machine
end

