-- ==== Sys2Proof/Machine/FrameFsm.lean ====
section
/-! DEFINITION. The frame state machine: hunting, the last byte, and the stream part of a step (rules R170 to R191). -/

namespace Sys2Proof.Machine

/-- `hunt_discard(b)` (rules R175, R176): the byte is counted, and is BAD_SYNC where the block was locked. -/
def huntDiscard (s : State) (b : Byte) : StreamResult :=
  let s' := { s with cnt := s.cnt.bump .skipped }
  if s.locked then
    let r := raiseFault s' .malformedHeader .badSync b 0 []
    { r with inc := .skipped :: r.inc }
  else { st := s', ev := none, inc := [.skipped] }

/-- `last_byte(b)`, the compare (rule R190). -/
def lastByte (s : State) (b : Byte) : StreamResult :=
  let comp := s.computedCk
  let recv := s.receivedCk b
  let s' := { s.memWrite b with ckComp := comp, ckRecv := recv }
  if comp = recv then
    { st :=
        { s' with
          idx := s.hdr.flen
          ph := .complete
          locked := true
          cnt := s.cnt.bump .framesOk }
      ev := some .frameOk
      inc := [.framesOk] }
  else raiseFault s' .checksumMismatch .checksumMismatch b s.idx []

/-- The step takes the byte into the frame: it is written to FBUF. Only a hunting discard is not (rule R73). -/
def State.acceptsIntoFrame (s : State) (b : Byte) : Bool := s.idx != 0 || s.isCandidate b

/-- What a byte accepted into the frame does, by its index (rule R174). -/
def frameByte (s : State) (b : Byte) : StreamResult :=
  if s.idx = 0 then syncAccept s b
  else if s.idx = 1 then byte1 s b
  else if s.idx = 2 then byte2 s b
  else if s.idx = 3 then byte3 s b
  else if s.idx < s.hdr.flen - 1 then bodyByte s b
  else lastByte s b

/-- `process(s, b)`, the operation of one byte (rule R174). A byte that would be written past the end of FBUF, which rule
R73 says cannot be, stops the machine (log 7). -/
def process (s : State) (b : Byte) : Except Fault StreamResult :=
  if s.acceptsIntoFrame b then
    if s.idx.toNat < s.cfg.fbufBytes then .ok (frameByte s b) else .error .fbufWriteBeyondEnd
  else .ok (huntDiscard s b)

/-- The byte the stream part processes, and the state without it: the head of the replay queue before a port byte (rules
R171, R172, R173, R180). -/
def State.nextByte (s : State) : Option (Byte × State) :=
  match s.rq with
  | b :: q => if s.en && s.ph == .awaitingHeader then some (b, { s with rq := q }) else none
  | [] => if s.inReady then s.offer.map fun b => (b, { s with offer := none }) else none

/-- The stream part of a step (rule R171): the Faulted recovery, or a replay byte, or a port byte, or nothing. -/
def streamPart (s : State) : Except Fault StreamResult :=
  if s.ph = .faulted then .ok (.quiet (faultRecover s))
  else
    match s.nextByte with
    | some (b, s') => process s' b
    | none => .ok (.quiet s)

end Sys2Proof.Machine
end

