-- ==== Sys2Proof/Machine/Registers.lean ====
section
/-! DEFINITION. The host register map (rules R23 to R48): address decode, the read of a word (rule R220), and the register
writes (rules R222 to R228). -/

namespace Sys2Proof.Machine

/-- What a word address of the host space names (rules R23, R70, R72). -/
inductive HostWord where
  | version
  | ctrl
  | status
  | events
  | irqEn
  | cmd
  | errDetail
  | hdr0
  | hdr1
  | hdrSoc
  | hdrFrac
  | ckLast
  | idx
  | curDesc
  | cntFramesOk
  | cntCksumErr
  | cntMalformed
  | cntUnknown
  | cntSkipped
  | ckResult
  | ckCount
  | lutSig (i : Fin 8)
  | vdescCfg (v : Fin 5)
  | vdescTmap (v : Fin 5)
  /-- a reserved address (rule R46) -/
  | reserved
  /-- the FBUF window, at an offset within it (rule R74) -/
  | window (offset : Nat)
deriving DecidableEq, Repr

/-- The single registers, by offset (rule R23). -/
def singleRegister (a : Nat) : HostWord :=
  match a with
  | 0x000 => .version
  | 0x004 => .ctrl
  | 0x008 => .status
  | 0x00C => .events
  | 0x010 => .irqEn
  | 0x014 => .cmd
  | 0x018 => .errDetail
  | 0x020 => .hdr0
  | 0x024 => .hdr1
  | 0x028 => .hdrSoc
  | 0x02C => .hdrFrac
  | 0x030 => .ckLast
  | 0x034 => .idx
  | 0x038 => .curDesc
  | 0x040 => .cntFramesOk
  | 0x044 => .cntCksumErr
  | 0x048 => .cntMalformed
  | 0x04C => .cntUnknown
  | 0x050 => .cntSkipped
  | 0x060 => .ckResult
  | 0x064 => .ckCount
  | _ => .reserved

/-- The VDESC block: of each 16 bytes the words at +0 and +4 are registers, those at +8 and +12 reserved (rules R23,
R46). -/
def vdescRegister (v : Fin 5) (within : Nat) : HostWord :=
  if within = 0 then .vdescCfg v else if within = 4 then .vdescTmap v else .reserved

/-- The word an address names; bits 1:0 are ignored (rules R23, R72). -/
def hostWord (addr : Addr) : HostWord :=
  let a := (addr &&& 0x1FFFC).toNat
  if 0x10000 ≤ a then .window (a - 0x10000)
  else if h : 0x100 ≤ a ∧ a < 0x120 then .lutSig ⟨(a - 0x100) / 4, by omega⟩
  else if h : 0x200 ≤ a ∧ a < 0x250 then vdescRegister ⟨(a - 0x200) / 16, by omega⟩ ((a - 0x200) % 16)
  else singleRegister a

/-- Lane `k` of a window read at offset `o` (rules R74, R75): the byte of FBUF, 0 past its end, and a free draw where it is
unwritten. -/
def State.windowLane (s : State) (o k : Nat) : Byte :=
  if o + k < s.cfg.fbufBytes then (s.fbuf.read (o + k)).getD (Config.freeByte (4 * s.draws + k)) else 0

/-- The window word at offset `o`, lanes little-endian (rule R74). -/
def State.windowWord (s : State) (o : Nat) : Word :=
  s.windowLane o 3 ++ (s.windowLane o 2 ++ (s.windowLane o 1 ++ s.windowLane o 0))

/-- STATUS (rules R26, R220). -/
def State.statusWord (s : State) : Word :=
  s.ph.code.setWidth 32 ||| BitVec.ofNat 32 s.ctx.var.val <<< 3 ||| s.ctx.ftype.code.setWidth 32 <<< 6 |||
    bit s.locked <<< 8 ||| BitVec.ofNat 32 s.rq.length <<< 9 ||| bit (s.ph == .complete) <<< 11 |||
    s.need.setWidth 32 <<< 16

/-- CUR_DESC (rules R38, R220): HLEN is H. -/
def State.curDescWord (s : State) : Word :=
  s.ctx.alg.code.setWidth 32 ||| BitVec.ofNat 32 s.ctx.frac.val <<< 2 ||| BitVec.ofNat 32 s.ctx.foot.val <<< 4 |||
    bit s.ctx.ord <<< 6 ||| s.ctx.off.setWidth 32 <<< 8 ||| s.headerLen.setWidth 32 <<< 16

/-- The value of a word of the host space (rules R24 to R46, R220). -/
def State.wordValue (s : State) : HostWord → Word
  | .version => 0x00010000
  | .ctrl => bit s.en
  | .status => s.statusWord
  | .events => s.events.setWidth 32
  | .irqEn => s.irqEn.setWidth 32
  | .cmd => 0
  | .errDetail => s.err.reason.code.setWidth 32 ||| s.err.byte.setWidth 32 <<< 8 ||| s.err.idx.setWidth 32 <<< 16
  | .hdr0 => s.hdr.sync.setWidth 32 ||| s.hdr.tv.setWidth 32 <<< 8 ||| s.hdr.flen.setWidth 32 <<< 16
  | .hdr1 => s.hdr.idc.setWidth 32 ||| s.hdr.cells.setWidth 32 <<< 16
  | .hdrSoc => s.hdr.soc
  | .hdrFrac => s.hdr.frac
  | .ckLast => s.ckComp.setWidth 32 ||| s.ckRecv.setWidth 32 <<< 16
  | .idx => s.idx.setWidth 32
  | .curDesc => s.curDescWord
  | .cntFramesOk => s.cnt.framesOk
  | .cntCksumErr => s.cnt.cksumErr
  | .cntMalformed => s.cnt.malformed
  | .cntUnknown => s.cnt.unknown
  | .cntSkipped => s.cnt.skipped
  | .ckResult => s.engine.acc.setWidth 32 ||| s.engine.alg.code.setWidth 32 <<< 16
  | .ckCount => s.engine.cnt
  | .lutSig i => s.lut[i].toWord
  | .vdescCfg v => s.vcfg[v].toWord
  | .vdescTmap v => s.vtmap[v]
  | .reserved => 0
  | .window o => s.windowWord o

/-- `rdata(s, addr)`, from the pre-step state (rule R220). -/
def State.rdata (s : State) (addr : Addr) : Word := s.wordValue (hostWord addr)

/-- A refused write: nothing changes, BUS_ERR is set (rules R228, R258). -/
def refuseWrite (s : State) : State × Bool := (s, true)

/-- `lut_write` (rule R225): locked while EN = 1. -/
def lutWrite (s : State) (i : Fin 8) (d : Word) : State × Bool :=
  if s.en then refuseWrite s
  else
    let (e, err) := s.lut[i].written d
    ({ s with lut := s.lut.set i e }, err)

/-- `vcfg_write` (rule R226): locked while EN = 1. -/
def vcfgWrite (s : State) (v : Fin 5) (d : Word) : State × Bool :=
  if s.en then refuseWrite s
  else
    let (c, err) := s.vcfg[v].written d
    ({ s with vcfg := s.vcfg.set v c }, err)

/-- `vtmap_write` (rule R227): locked while EN = 1. -/
def vtmapWrite (s : State) (v : Fin 5) (d : Word) : State × Bool :=
  if s.en then refuseWrite s else ({ s with vtmap := s.vtmap.set v d }, false)

/-- The CTRL write (rule R222). -/
def ctrlWrite (s : State) (d : Word) : State × Bool := ({ s with en := d.getLsbD 0 }, false)

/-- The EVENTS write, write 1 to clear (rule R223). -/
def eventsWrite (s : State) (d : Word) : State × Bool := ({ s with events := clearEvents s.events d }, false)

/-- The IRQ_EN write (rule R224). -/
def irqEnWrite (s : State) (d : Word) : State × Bool := ({ s with irqEn := d.extractLsb' 0 6 }, false)

end Sys2Proof.Machine
end

