-- ==== Sys2Proof/Machine/Edge.lean ====
section
/-! DEFINITION. One clock edge: outputs, the stream part, the bus part, the event merge (rules R57, R171), the idle edge
(rule R191) and the reset edge (rules R280 to R283). -/

namespace Sys2Proof.Machine

/-- The bus part of a step: given the counters the stream part incremented and the state it left, the new state and
`buserr` (rules R171, R221). -/
abbrev BusPart := List Counter → State → State × Bool

/-- The outputs of a step, from its pre-state; `rdata` where the step reads (rule R57). -/
def State.outputs (s : State) (read : Option Addr) : Outputs :=
  { inReady := s.inReady
    frameAvail := s.ph == .complete
    irq := s.irq
    evValid := s.evq.isSome
    evCode := match s.evq with
      | none => 0
      | some e => e.code
    variant := BitVec.ofNat 3 s.ctx.var.val
    rdata := read.map s.rdata }

/-- The event merge and the outputs, on the state the bus part left (rule R171, part 3). -/
def State.finish (s2 : State) (ev : Option StreamEvent) (buserr : Bool) (out : Outputs) : State :=
  { s2 with events := mergeEvents s2.events ev buserr, evq := ev, out := out }

/-- One step with rst = 0 (rule R171): the stream part on the byte the source offers, then the bus part, then the event
merge. -/
def clockEdge (read : Option Addr) (bus : BusPart) (s : State) : StepOutcome :=
  match streamPart s with
  | .error f => .fault f
  | .ok r =>
    let (s2, buserr) := bus r.inc r.st
    .next (s2.finish r.ev buserr (s.outputs read))

/-- A step without a bus access. -/
def noBus : BusPart := fun _ s1 => (s1, false)

/-- A step with no operation on the host bus; with nothing offered either it is the idle step (rule R191). -/
def idleEdge (s : State) : StepOutcome := clockEdge none noBus s

/-- A step with rst = 1 (rules R280 to R283): every field of the block at its reset value, whatever the inputs. The
environment's own fields and the parameters stay (log 14). -/
def resetEdge (s : State) : State :=
  { State.reset with cfg := s.cfg, offer := s.offer, script := s.script, draws := s.draws, out := Outputs.reset }

end Sys2Proof.Machine
end

