-- ==== Sys2Proof/Machine/Commands.lean ====
section
/-! DEFINITION. The commands NOP, ABORT, RELEASE and CLR_COUNTERS (rules R229 to R233). -/

namespace Sys2Proof.Machine

/-- NOP: no state change (rule R230). -/
def nopPart : BusPart := fun _ s1 => (s1, false)

/-- ABORT: the frame in progress and any replay are discarded (rule R231). -/
def abortPart : BusPart := fun _ s1 => ({ s1 with ph := .awaitingHeader, idx := 0, rq := [], locked := false }, false)

/-- RELEASE: the held frame buffer is returned; refused outside Complete (rule R232). -/
def releasePart : BusPart := fun _ s1 =>
  if s1.ph = .complete then ({ s1 with ph := .awaitingHeader, idx := 0 }, false) else refuseWrite s1

/-- CLR_COUNTERS (rule R233). -/
def clrCountersPart : BusPart := fun inc s1 => ({ s1 with cnt := Counters.clear inc }, false)

/-- The step that writes NOP to CMD. -/
def execNop (s : State) : StepOutcome := clockEdge none nopPart s

/-- The step that writes ABORT to CMD. -/
def execAbort (s : State) : StepOutcome := clockEdge none abortPart s

/-- The step that writes RELEASE to CMD. -/
def execRelease (s : State) : StepOutcome := clockEdge none releasePart s

/-- The step that writes CLR_COUNTERS to CMD. -/
def execClrCounters (s : State) : StepOutcome := clockEdge none clrCountersPart s

end Sys2Proof.Machine
end

