-- ==== Sys2Proof/Machine/EngineOps.lean ====
section
/-! DEFINITION. The standalone checksum engine's commands CK_INIT and CK_BYTE (rules R124 to R127). -/

namespace Sys2Proof.Machine

/-- CK_INIT (rule R125): restart the engine with an algorithm; the code 3 is reserved and sets BUS_ERR. -/
def ckInitPart (code : BitVec 2) : BusPart := fun _ s1 =>
  match ckAlgOfCode code with
  | none => refuseWrite s1
  | some alg => ({ s1 with engine := { alg := alg, acc := Config.ckInit s1.cfg alg, cnt := 0 } }, false)

/-- The engine after one byte (rule R126): the count's bit 0 is the XOR-sum's position. -/
def Engine.feed (e : Engine) (b : Byte) : Engine :=
  { e with acc := ckUpd e.alg e.acc b (e.cnt.getLsbD 0), cnt := e.cnt + 1 }

/-- CK_BYTE (rule R126). -/
def ckBytePart (b : Byte) : BusPart := fun _ s1 => ({ s1 with engine := s1.engine.feed b }, false)

/-- The step that writes CK_INIT to CMD. -/
def execCkInit (alg : BitVec 2) (s : State) : StepOutcome := clockEdge none (ckInitPart alg) s

/-- The step that writes CK_BYTE to CMD. -/
def execCkByte (b : Byte) (s : State) : StepOutcome := clockEdge none (ckBytePart b) s

end Sys2Proof.Machine
end

