-- ==== Sys2Proof/Machine/Bus.lean ====
section
/-! DEFINITION. The BUS operations CSR_READ and CSR_WRITE (rules R220, R221), and the decode of a word written to CMD (rule
R229). -/

namespace Sys2Proof.Machine

/-- `command(s1, d, inc)` (rule R229): the checks of MBZ and ARG, and the command of the opcode. -/
def commandPart (d : Word) : BusPart := fun inc s1 =>
  let op := d.extractLsb' 0 8
  let arg := d.extractLsb' 8 8
  if d.extractLsb' 16 16 ≠ 0 then refuseWrite s1
  else if op = 0x00 then if arg ≠ 0 then refuseWrite s1 else nopPart inc s1
  else if op = 0x01 then if arg ≠ 0 then refuseWrite s1 else abortPart inc s1
  else if op = 0x02 then if arg ≠ 0 then refuseWrite s1 else releasePart inc s1
  else if op = 0x03 then if arg ≠ 0 then refuseWrite s1 else clrCountersPart inc s1
  else if op = 0x10 then
    if arg.extractLsb' 2 6 ≠ 0 then refuseWrite s1 else ckInitPart (arg.extractLsb' 0 2) inc s1
  else if op = 0x11 then ckBytePart arg inc s1
  else refuseWrite s1

/-- `bus_write(s1, addr, d, inc)` (rules R221 to R228). -/
def writePart (addr : Addr) (d : Word) : BusPart := fun inc s1 =>
  match hostWord addr with
  | .ctrl => ctrlWrite s1 d
  | .events => eventsWrite s1 d
  | .irqEn => irqEnWrite s1 d
  | .cmd => commandPart d inc s1
  | .lutSig i => lutWrite s1 i d
  | .vdescCfg v => vcfgWrite s1 v d
  | .vdescTmap v => vtmapWrite s1 v d
  | .version => refuseWrite s1
  | .status => refuseWrite s1
  | .errDetail => refuseWrite s1
  | .hdr0 => refuseWrite s1
  | .hdr1 => refuseWrite s1
  | .hdrSoc => refuseWrite s1
  | .hdrFrac => refuseWrite s1
  | .ckLast => refuseWrite s1
  | .idx => refuseWrite s1
  | .curDesc => refuseWrite s1
  | .cntFramesOk => refuseWrite s1
  | .cntCksumErr => refuseWrite s1
  | .cntMalformed => refuseWrite s1
  | .cntUnknown => refuseWrite s1
  | .cntSkipped => refuseWrite s1
  | .ckResult => refuseWrite s1
  | .ckCount => refuseWrite s1
  | .reserved => refuseWrite s1
  | .window _ => refuseWrite s1

/-- A bus read changes nothing of the block (rules R81, R171); the model counts it, so that the free bytes of the next read
are other draws (rule R75; log 6). -/
def readPart : BusPart := fun _ s1 => ({ s1 with draws := s1.draws + 1 }, false)

/-- CSR_READ (rules R171, R220): `rdata` carries the word, from the pre-step state. -/
def execCsrRead (addr : Addr) (s : State) : StepOutcome := clockEdge (some addr) readPart s

/-- CSR_WRITE (rules R171, R221): the write acts on the state the stream part left. -/
def execCsrWrite (addr : Addr) (d : Word) (s : State) : StepOutcome := clockEdge none (writePart addr d) s

end Sys2Proof.Machine
end

