-- ==== Sys2Proof/Machine/Stream.lean ====
section
/-! DEFINITION. The STREAM operation (rule R174). -/

namespace Sys2Proof.Machine

/-- STREAM_BYTE (rules R171, R174): the step in which the source offers `b`. It is transferred where in_ready = 1; where it
is not, the step is that of an idle source and the byte stays on the port (rule R56; log 15). -/
def execStreamByte (b : Byte) (s : State) : StepOutcome := clockEdge none noBus { s with offer := some b }

end Sys2Proof.Machine
end

