-- ==== Sys2Proof/Machine/Dispatch.lean ====
section
/-! DEFINITION. The meaning of every operation, one arm each. -/

namespace Sys2Proof.Machine

def exec (i : Instr) (s : State) : Host.Outcome State Fault Refusal :=
  match i with
  | .streamByte b => Sys2Proof.Machine.execStreamByte b s
  | .csrRead addr => Sys2Proof.Machine.execCsrRead addr s
  | .csrWrite addr d => Sys2Proof.Machine.execCsrWrite addr d s
  | .nop => Sys2Proof.Machine.execNop s
  | .abort => Sys2Proof.Machine.execAbort s
  | .release => Sys2Proof.Machine.execRelease s
  | .clrCounters => Sys2Proof.Machine.execClrCounters s
  | .ckInit alg => Sys2Proof.Machine.execCkInit alg s
  | .ckByte b => Sys2Proof.Machine.execCkByte b s

end Sys2Proof.Machine
end

