-- ==== Sys2Proof/WellFormed.lean ====
section
/-! DEFINITION. Which operations are written in their own form (rules R90, R94). A bus write of a command's word to CMD IS
that command (rule R90), so it is written with the command's constructor and not as a CSR_WRITE (log 8). -/

namespace Sys2Proof

/-- The address decodes to CMD, offset 0x014; bits 1:0 are ignored (rules R72, R90). -/
def addressesCmd (a : Addr) : Bool := a &&& 0x1FFFC == 0x00014

/-- The word matches a row of the CMD opcode map (rule R94: match and mask). -/
def isCommandWord (w : Word) : Bool :=
  w == 0x00000000 || w == 0x00000001 || w == 0x00000002 || w == 0x00000003 ||
  w &&& 0xFFFFFCFF == 0x00000010 || w &&& 0xFFFF00FF == 0x00000011

/-- Well-formed operations. Every byte and every address is legal (rules R91, R92); the one check is that a CSR_WRITE is
not a command spelled as a bus write. -/
def Instr.wellFormed : Instr → Bool
  | .streamByte _ => true
  | .csrRead _ => true
  | .csrWrite a d => !(addressesCmd a && isCommandWord d)
  | .nop => true
  | .abort => true
  | .release => true
  | .clrCounters => true
  | .ckInit _ => true
  | .ckByte _ => true

end Sys2Proof
end

