-- ==== Sys2Proof/Decode.lean ====
section
/-! DEFINITION. Decoding the ports into operations and encoding operations back (rules R90 to R96; the byte layout of an
encoded operation is log 9). -/

namespace Sys2Proof

/-- Why a sequence of bytes is no encoded operation. -/
inductive DecodeError where
  /-- No format of rule R90 has this many bytes. -/
  | noFormatOfThisLength (len : Nat)
  /-- A bit above the format's width is 1. -/
  | paddingNotZero
  /-- The kind bit says write in a read's length, or read in a write's. -/
  | wrongBusKind
deriving DecidableEq, Repr

/-- One row of the CMD opcode map: the word is the row's instruction iff it agrees with `pattern` under `mask` (rule R94). -/
structure CmdRow where
  mask : Word
  pattern : Word
  /-- the instruction, with its operand assembled from the word (rule R96) -/
  make : Word → Instr

/-- The CMD opcode map of rule R94. -/
def cmdRows : List CmdRow :=
  [ ⟨0xFFFFFFFF, 0x00000000, fun _ => .nop⟩,
    ⟨0xFFFFFFFF, 0x00000001, fun _ => .abort⟩,
    ⟨0xFFFFFFFF, 0x00000002, fun _ => .release⟩,
    ⟨0xFFFFFFFF, 0x00000003, fun _ => .clrCounters⟩,
    ⟨0xFFFFFCFF, 0x00000010, fun w => .ckInit (w.extractLsb' 8 2)⟩,
    ⟨0xFFFF00FF, 0x00000011, fun w => .ckByte (w.extractLsb' 8 8)⟩ ]

/-- The command a word written to CMD is, if its word is in the map of rule R94; none for the other reserved words of rule
R95. -/
def decodeCmd (w : Word) : Option Instr :=
  (cmdRows.find? fun r => w &&& r.mask == r.pattern).map fun r => r.make w

/-- The operation one port carries (rule R90). Every port word is one: a stream byte, a bus read, and a bus write, which
at CMD is a command where its word is in the map and else the CSR_WRITE of a reserved word (rules R95, R234; log 8). -/
def decodePort : PortWord → Instr
  | .stream b => .streamByte b
  | .bus (.read a) => .csrRead a
  | .bus (.write a d) => if addressesCmd a then (decodeCmd d).getD (.csrWrite a d) else .csrWrite a d

/-- The number `n` bytes spell, the first byte least significant (log 9). -/
def leNat : List Byte → Nat
  | [] => 0
  | b :: bs => b.toNat + 256 * leNat bs

/-- The low `n` bytes of a number, least significant first (log 9). -/
def leBytes : Nat → Nat → List Byte
  | 0, _ => []
  | n + 1, w => BitVec.ofNat 8 w :: leBytes n (w / 256)

/-- The port word that encoded bytes spell: the opcode table's number of the format, least significant byte first. STREAM
has 8 bits; a read has a kind bit 0 above 17 address bits; CMD has 32 bits, carried by a write to 0x014; a write has a kind
bit 1 above 17 address bits above 32 data bits (rules R90 to R93; log 9). -/
def parsePort (bs : List Byte) : Except DecodeError PortWord :=
  let n := leNat bs
  match bs.length with
  | 1 => .ok (.stream (BitVec.ofNat 8 n))
  | 3 =>
    if n < 2 ^ 17 then .ok (.bus (.read (BitVec.ofNat 17 n)))
    else if n < 2 ^ 18 then .error .wrongBusKind
    else .error .paddingNotZero
  | 4 => .ok (.bus (.write 0x00014 (BitVec.ofNat 32 n)))
  | 7 =>
    if n < 2 ^ 49 then .error .wrongBusKind
    else if n < 2 ^ 50 then .ok (.bus (.write (BitVec.ofNat 17 (n / 2 ^ 32)) (BitVec.ofNat 32 n)))
    else .error .paddingNotZero
  | len => .error (.noFormatOfThisLength len)

/-- Decode the bytes of one encoded operation. -/
def decode (bs : List Byte) : Except DecodeError Instr := (parsePort bs).map decodePort

/-- The CMD word of a command with the opcode `op` and the argument byte `arg` (rule R93). -/
def cmdWord (op arg : Byte) : Word := (0 : Half) ++ (arg ++ op)

/-- The bytes of an operation, written from the formats of rules R91 to R94. -/
def encode : Instr → List Byte
  | .streamByte b => leBytes 1 b.toNat
  | .csrRead a => leBytes 3 a.toNat
  | .csrWrite a d => leBytes 7 (2 ^ 49 + a.toNat * 2 ^ 32 + d.toNat)
  | .nop => leBytes 4 (cmdWord 0x00 0x00).toNat
  | .abort => leBytes 4 (cmdWord 0x01 0x00).toNat
  | .release => leBytes 4 (cmdWord 0x02 0x00).toNat
  | .clrCounters => leBytes 4 (cmdWord 0x03 0x00).toNat
  | .ckInit alg => leBytes 4 (cmdWord 0x10 (alg.setWidth 8)).toNat
  | .ckByte b => leBytes 4 (cmdWord 0x11 b).toNat

/-- The bytes of an opcode-table word of `nbits` bits, whole bytes. -/
def tableBytes (nbits w : Nat) : List Byte := leBytes ((nbits + 7) / 8) w

/-- The operation the decoder reads from an opcode-table word numbered as spec/opcode_table.json numbers it. -/
def decodeTableWord (nbits w : Nat) : Option Instr := (decode (tableBytes nbits w)).toOption

end Sys2Proof
end

