-- ==== Sys2Proof/Machine/Fetch.lean ====
section
/-! DEFINITION. How the block meets its next operation: the ports of the environment's next line (rules R56, R90, R103; logs
1, 2). -/

namespace Sys2Proof.Machine

/-- The port that selects the line's operation. A bus access selects it where the line has both: the byte is then offered
in the same step (rules R90, R103, R171). -/
def Line.port (l : Line) : Option PortWord :=
  match l.bus with
  | some a => some (.bus a)
  | none => l.byte.map .stream

/-- The line that carries one operation alone. -/
def lineOf : PortWord → Line
  | .stream b => { rst := false, byte := some b, bus := none, hold := true }
  | .bus a => { rst := false, byte := none, bus := some a, hold := true }

/-- The source's offer after the line's step: kept where it holds its byte, else withdrawn (rules R103, R297). -/
def State.settleOffer (s : State) (hold : Bool) : State := if hold then s else { s with offer := none }

/-- The state in which a line's step starts: its byte is on the port, and the line is used up. -/
def State.startLine (s : State) (l : Line) (rest : List Line) : State := { s with offer := l.byte, script := rest }

/-- The outcome of a line's step, with the source's offer settled. -/
def settleOutcome (hold : Bool) : StepOutcome → StepOutcome
  | .next s => .next (s.settleOffer hold)
  | .fault f => .fault f
  | .refused r => .refused r

/-- The state with one encoded operation as the next line (bytes that spell none leave no line). -/
def State.withNextBytes (s : State) (bs : List Byte) : State :=
  match parsePort bs with
  | .ok p => { s with offer := none, script := lineOf p :: s.script }
  | .error _ => s

end Sys2Proof.Machine
end

