-- ==== Sys2Proof/Machine/Step.lean ====
section
/-! DEFINITION. One step of the machine (rules R13, R171), with its inputs taken from the environment's script. -/

namespace Sys2Proof.Machine

/-- The step of one line: reset (rule R280), the operation its ports carry, or an idle step (rule R191). -/
def stepLine (l : Line) (s : State) : StepOutcome :=
  if l.rst then settleOutcome l.hold (.next (resetEdge s))
  else
    match l.port with
    | some p => settleOutcome l.hold (exec (decodePort p) s)
    | none => settleOutcome l.hold (idleEdge s)

/-- One step. A byte the source still holds is offered again before the next line starts (rule R103); with no line
left the inputs are idle (logs 1, 2, 3). -/
def step (s : State) : Host.Outcome State Fault Refusal :=
  match s.offer with
  | some b => exec (decodePort (.stream b)) s
  | none =>
    match s.script with
    | [] => idleEdge s
    | l :: rest => stepLine l (s.startLine l rest)

/-- The state with the operation of an opcode-table word as the very next line of inputs (log 1). -/
def State.withFetchWord (s : State) (nbits w : Nat) : State := s.withNextBytes (tableBytes nbits w)

end Sys2Proof.Machine
end

