-- ==== Sys2Proof/Safety.lean ====
section
/-! DEFINITION. What counts as a safe state and a safe run of FVAL, in the terms the statements use. -/

namespace Sys2Proof.Machine

/-! ## Hypotheses on a state alone -/

/-- The next frame byte has a place in FBUF, or no byte is processed in this phase (rule R73). Every state that meets
`State.Inv` fits. -/
def State.fits (s : State) : Prop :=
  s.ph = .complete ∨ s.ph = .faulted ∨ s.idx.toNat < s.cfg.fbufBytes

/-- No stream part runs in the next step: no recovery, no replay byte, and no byte offered or none taken (rules R171,
R191). -/
def State.quiet (s : State) : Prop :=
  s.ph ≠ .faulted ∧ (s.rq = [] ∨ s.en = false ∨ s.ph ≠ .awaitingHeader) ∧ (s.offer = none ∨ s.inReady = false)

/-- The state whose ports carry the operation: the stream source offers STREAM_BYTE's byte (rule R174). -/
def State.presenting (s : State) : Instr → State
  | .streamByte b => { s with offer := some b }
  | .csrRead _ => s
  | .csrWrite _ _ => s
  | .nop => s
  | .abort => s
  | .release => s
  | .clrCounters => s
  | .ckInit _ => s
  | .ckByte _ => s

/-- The operation's step processes the byte `b`, from the replay queue or from the port (rule R171). -/
def State.ProcessesByte (s : State) (i : Instr) (b : Byte) : Prop :=
  s.ph ≠ .faulted ∧ ∃ s', (s.presenting i).nextByte = some (b, s')

/-- The operation is a write of the CMD word `w`, in its own form or as a CSR_WRITE (rule R90). -/
def WritesCmd (i : Instr) (w : Word) : Prop :=
  (∃ a, addressesCmd a = true ∧ i = .csrWrite a w) ∨ decodeCmd w = some i

/-- The outcome is that of an idle step, but for BUS_ERR being set: a refused write (rules R228, R234, R258). -/
def State.BusErrOnly (s : State) (o : StepOutcome) : Prop :=
  ∃ t, idleEdge s = .next t ∧ o = .next { t with events := t.events ||| 0x20 }

/-! ## Dispatch, said without the table's search (rules R200, R202) -/

/-- The byte is the SYNC of a valid entry. -/
def State.Candidate (s : State) (b : Byte) : Prop := ∃ i : Fin 8, s.lut[i].valid = true ∧ s.lut[i].sync = b

/-- Entry `i` matches the signature. -/
def State.EntryMatches (s : State) (i : Fin 8) (sync : Byte) (nib : BitVec 4) : Prop :=
  s.lut[i].valid = true ∧ s.lut[i].sync = sync ∧ s.lut[i].nibbleMask.getLsbD nib.toNat = true

/-- Entry `i` is the matching entry of the lowest index. -/
def State.Selects (s : State) (i : Fin 8) (sync : Byte) (nib : BitVec 4) : Prop :=
  s.EntryMatches i sync nib ∧ ∀ j : Fin 8, j < i → ¬ s.EntryMatches j sync nib

/-! ## The invariant of every reachable state -/

/-- The length checks of rule R145 hold of the declared length. -/
def State.LengthOk (s : State) : Prop := s.minLen ≤ s.hdr.flen ∧ s.hdr.flen.toNat ≤ s.cfg.fbufBytes

/-- The phase is one of 0..4: a frame is hunted for or being received (rule R170). -/
def Phase.receiving (p : Phase) : Prop := p ≠ .complete ∧ p ≠ .faulted

/-- The bounds of the replay queue (rule R181); a replay only follows a fault, so the block is not locked. -/
def State.ReplayOk (s : State) : Prop :=
  s.rq.length ≤ 3 ∧
    (s.rq ≠ [] →
      (s.ph = .awaitingHeader ∨ s.ph = .faulted) ∧ s.idx.toNat ≤ 3 ∧ s.locked = false ∧
        (s.ph = .awaitingHeader → s.idx.toNat + s.rq.length ≤ 3))

/-- Where the block stands in its frame (rules R21, R177, R182, R190). -/
def State.PositionOk (s : State) : Prop :=
  (s.ph.receiving → s.idx.toNat ≤ 3 → s.ph = .awaitingHeader) ∧
    (s.ph.receiving → 4 ≤ s.idx.toNat → s.LengthOk ∧ s.idx < s.hdr.flen ∧ s.ph = s.phaseOf s.idx) ∧
    (s.ph = .complete → s.locked = true ∧ 4 ≤ s.idx.toNat ∧ s.LengthOk ∧ s.idx = s.hdr.flen) ∧
    (s.ph = .faulted → s.locked = false ∧ s.idx = s.err.idx)

/-- The invariant of FVAL: the parameters are legal (R8), FBUF is canonical and within its size (R54, R73), EVENTS[4] is 0
(R255), and the replay queue and the frame position are as the rules say. -/
structure State.Inv (s : State) : Prop where
  cfg_wf : s.cfg.wf = true
  fbuf_wf : s.fbuf.wf = true
  fbuf_below : s.fbuf.below s.cfg.fbufBytes = true
  no_structural_mismatch : s.events.getLsbD 4 = false
  replay_ok : s.ReplayOk
  position_ok : s.PositionOk

/-! ## What the block has kept of the current frame -/

/-- The bytes of `d` at the positions `lo` to `hi - 1`. -/
def slice (d : List Byte) (lo hi : Nat) : List Byte := (d.take hi).drop lo

/-- The big-endian value of bytes, modulo 2^w (rule R99). -/
def bigEndian (w : Nat) (bs : List Byte) : BitVec w := bs.foldl (fun v b => v <<< 8 ||| b.setWidth w) 0

/-- The header registers hold the fields of the bytes so far (rules R97, R99, R147 to R151). -/
def State.HeaderHolds (s : State) (d : List Byte) : Prop :=
  s.hdr.sync = d.getD 0 0 ∧
    s.hdr.tv = d.getD 1 0 ∧
    s.hdr.flen = d.getD 2 0 ++ d.getD 3 0 ∧
    s.hdr.idc = bigEndian 16 (slice d 4 6) ∧
    s.hdr.soc = bigEndian 32 (slice d 6 10) ∧
    s.hdr.frac = bigEndian 32 (slice d 10 s.headerLen.toNat) ∧
    s.hdr.cells =
      if s.hasCells then bigEndian 16 (slice d s.cellOff.toNat (s.cellOff.toNat + 2)) else 0

/-- How many of the first `n` frame bytes are accumulated: all before CS (rule R119). -/
def State.accumulated (s : State) (n : Nat) : Nat := if 4 ≤ n then min n s.cksumStart.toNat else n

/-- The accumulators hold the three strategies' values over the accumulated bytes (rules R49, R119). -/
def State.AccumulatorsHold (s : State) (d : List Byte) : Prop :=
  s.acc.cc = cks s.cfg .ccitt (d.take (s.accumulated d.length)) ∧
    s.acc.c16 = cks s.cfg .crc16 (d.take (s.accumulated d.length)) ∧
    s.acc.x = cks s.cfg .xorSum (d.take (s.accumulated d.length))

/-- The received checksum of a whole frame: its last two bytes in the latched order (rules R78, R121). -/
def State.trailer (s : State) (d : List Byte) : Half :=
  let hi := d.getD s.cksumStart.toNat 0
  let lo := d.getD (s.cksumStart.toNat + 1) 0
  if s.ctx.ord then lo ++ hi else hi ++ lo

/-- `d` is the frame so far: FBUF holds it, and the block's registers describe it. -/
structure State.Holds (s : State) (d : List Byte) : Prop where
  length_eq : d.length = s.idx.toNat
  buffered : ∀ k < d.length, s.fbuf.read k = d[k]?
  header : s.HeaderHolds d
  accumulators : s.AccumulatorsHold d
  first_checksum_byte : 4 ≤ d.length → s.cksumStart.toNat < d.length → s.ckr0 = d.getD s.cksumStart.toNat 0
  accepted : s.ph = .complete →
    s.ckComp = cks s.cfg s.ctx.alg (d.take s.cksumStart.toNat) ∧ s.ckRecv = s.trailer d ∧ s.ckComp = s.ckRecv

/-- While a frame is being received, and while an accepted frame is held, the block holds it exactly (rules R49, R85, R97,
R119). -/
def State.FrameInv (s : State) : Prop :=
  (s.ph.receiving ∧ s.idx ≠ 0) ∨ s.ph = .complete → ∃ d, s.Holds d

/-! ## Runs -/

/-- Several operations, one step each, stopping at the first fault or refusal. -/
def execAll : List Instr → State → StepOutcome
  | [], s => .next s
  | i :: is, s =>
    match exec i s with
    | .next t => execAll is t
    | .fault f => .fault f
    | .refused r => .refused r

/-- `n` idle steps. -/
def idles : Nat → State → StepOutcome
  | 0, s => .next s
  | n + 1, s =>
    match idleEdge s with
    | .next t => idles n t
    | .fault f => .fault f
    | .refused r => .refused r

/-- Bytes offered one after another without a gap. -/
def feed (bs : List Byte) (s : State) : StepOutcome := execAll (bs.map .streamByte) s

/-- Bytes offered with idle steps before each: a number of idle steps, and the byte after them. -/
def feedWithGaps : List (Nat × Byte) → State → StepOutcome
  | [], s => .next s
  | (n, b) :: gs, s =>
    match idles n s with
    | .next t =>
      match exec (.streamByte b) t with
      | .next u => feedWithGaps gs u
      | .fault f => .fault f
      | .refused r => .refused r
    | .fault f => .fault f
    | .refused r => .refused r

/-- Each byte is taken in the step that offers it. -/
def TakesEach : List Byte → State → Prop
  | [], _ => True
  | b :: bs, s => s.inReady = true ∧ ∃ t, exec (.streamByte b) s = .next t ∧ TakesEach bs t

/-- The XOR of the big-endian 16-bit words of a sequence, an odd last byte counting as the word with a low byte of 0 (rule
R116). -/
def xorOfWords : List Byte → Half
  | [] => 0
  | [b] => b ++ (0 : Byte)
  | b0 :: b1 :: bs => (b0 ++ b1) ^^^ xorOfWords bs

end Sys2Proof.Machine
end

