-- ==== Sys2Proof/Certificates/Slice0/Obligations.lean ====
section
/-! DEFINITION. The statements for the provers. A write or command's step is compared with the idle step of the same state
(`idleEdge`), which does the same stream part (rule R171); that says the frame of each bus operation whole. -/

open Sys2Proof Sys2Proof.Machine

/-! ## Decoding and encoding -/

/-- Every well-formed operation is read back from its own encoding, with every operand (rules R91 to R94, R96). -/
def Obligations.DecodeOfEncode : Prop :=
  ∀ i : Instr, i.wellFormed = true → decode (encode i) = .ok i

/-- Words written out from the match and mask of rule R94 and the formats of rules R91, R92 decode to their operations. -/
def Obligations.TableWordsDecode : Prop :=
  decodeTableWord 8 0xAA = some (.streamByte 0xAA) ∧
    decodeTableWord 24 0x10004 = some (.csrRead 0x10004) ∧
    decodeTableWord 56 0x2010000061228 = some (.csrWrite 0x00100 0x00061228) ∧
    decodeTableWord 32 0x00000000 = some .nop ∧
    decodeTableWord 32 0x00000001 = some .abort ∧
    decodeTableWord 32 0x00000002 = some .release ∧
    decodeTableWord 32 0x00000003 = some .clrCounters ∧
    decodeTableWord 32 0x00000210 = some (.ckInit 2) ∧
    decodeTableWord 32 0x00004111 = some (.ckByte 0x41)

/-- A CSR_WRITE to CMD runs the command that the opcode map names for its word (rules R90, R94, R229). -/
def Obligations.CmdWriteRunsItsCommand : Prop :=
  ∀ (a : Addr) (d : Word) (s : State) (i : Instr),
    addressesCmd a = true → decodeCmd d = some i → exec (.csrWrite a d) s = exec i s

/-- A step with the line `l` next runs the operation the line's ports decode to, which is always well-formed, in the state
with the line's byte on the port and the line used up; a source that does not hold its byte then withdraws it (log 1). A line
with neither a byte nor a bus access is an idle step. A byte still held is offered again, and with nothing to come the step is
idle. So the bytes of a table word placed as the next
input run as the operation they decode to. -/
def Obligations.StepRunsTheDecodedOperation : Prop :=
  (∀ (s : State) (l : Line) (rest : List Line) (p : PortWord),
    s.offer = none → s.script = l :: rest → l.rst = false → l.port = some p →
      (decodePort p).wellFormed = true ∧
      step s = settleOutcome l.hold (exec (decodePort p) { s with offer := l.byte, script := rest })) ∧
    (∀ (s : State) (l : Line) (rest : List Line),
      s.offer = none → s.script = l :: rest → l.rst = false → l.byte = none → l.bus = none →
        step s = settleOutcome l.hold (idleEdge { s with script := rest })) ∧
    (∀ (s : State) (b : Byte), s.offer = some b → step s = exec (.streamByte b) s) ∧
    (∀ s : State, s.offer = none → s.script = [] → step s = idleEdge s) ∧
    (∀ t : State, settleOutcome true (.next t) = .next t ∧
      settleOutcome false (.next t) = .next { t with offer := none }) ∧
    ∀ (s : State) (nbits w : Nat) (i : Instr), decodeTableWord nbits w = some i →
      i.wellFormed = true ∧ step (s.withFetchWord nbits w) = exec i { s with offer := none }

/-! ## Reset -/

/-- The reset values of all state (rule R58). -/
def Obligations.ResetValues : Prop :=
  let s := State.reset
  s.en = false ∧ s.irqEn = 0 ∧ s.events = 0 ∧ s.ph = .awaitingHeader ∧ s.idx = 0 ∧ s.locked = false ∧ s.rq = [] ∧
    s.hdr = { sync := 0, tv := 0, flen := 0, idc := 0, cells := 0, soc := 0, frac := 0 } ∧
    s.ctx = { var := 0, ftype := .configuration, alg := .ccitt, frac := 0, foot := 0, ord := false, off := 0 } ∧
    s.acc = { cc := 0, c16 := 0, x := 0 } ∧ s.ckr0 = 0 ∧ s.ckComp = 0 ∧ s.ckRecv = 0 ∧
    s.err = { reason := .none, byte := 0, idx := 0 } ∧
    s.cnt = { framesOk := 0, cksumErr := 0, malformed := 0, unknown := 0, skipped := 0 } ∧
    s.engine = { alg := .ccitt, acc := 0xFFFF, cnt := 0 } ∧
    (∀ i : Fin 8, s.rdata (0x100 + BitVec.ofNat 17 (4 * i.val)) = 0) ∧
    (∀ v : Fin 5, s.rdata (0x200 + BitVec.ofNat 17 (16 * v.val)) = 0xFFFF0000 ∧
      s.rdata (0x204 + BitVec.ofNat 17 (16 * v.val)) = 0) ∧
    s.evq = none ∧ ∀ a : Nat, s.fbuf.read a = none

/-- A step with rst = 1 gives the reset state whatever the pre-state and the other inputs, and drives every output 0. What
the environment still holds, the parameters and the count of reads are the model's and stay (log 14). -/
def Obligations.ResetStep : Prop :=
  ∀ (s : State) (l : Line) (rest : List Line),
    s.offer = none → s.script = l :: rest → l.rst = true →
      step s = .next
        { State.reset with
          cfg := s.cfg
          script := rest
          offer := if l.hold then l.byte else none
          draws := s.draws
          out :=
            { inReady := false, frameAvail := false, irq := false, evValid := false, evCode := 0, variant := 0,
              rdata := some 0 } }

/-! ## The host bus -/

/-- A read changes nothing of the block: its step is the idle step, with the word of the pre-step state on rdata (the count
of reads is the model's own, log 6). -/
def Obligations.ReadHasNoSideEffect : Prop :=
  ∀ (a : Addr) (s : State), s.fits →
    ∃ t, idleEdge s = .next t ∧
      exec (.csrRead a) s =
        .next { t with out := { t.out with rdata := some (s.rdata a) }, draws := s.draws + 1 }

/-- The single registers that are read whole (rules R24, R25, R27 to R29, R34, R35, R37, R39, R41, R44), and the reserved
addresses, which read 0 (rule R46). -/
def Obligations.RegisterReadValues : Prop :=
  ∀ s : State,
    s.rdata 0x000 = 0x00010000 ∧ (s.rdata 0x004).getLsbD 0 = s.en ∧ s.rdata 0x004 &&& 0xFFFFFFFE = 0 ∧
      s.rdata 0x00C = s.events.setWidth 32 ∧ s.rdata 0x010 = s.irqEn.setWidth 32 ∧ s.rdata 0x014 = 0 ∧
      s.rdata 0x028 = s.hdr.soc ∧ s.rdata 0x02C = s.hdr.frac ∧ s.rdata 0x034 = s.idx.setWidth 32 ∧
      s.rdata 0x040 = s.cnt.framesOk ∧ s.rdata 0x044 = s.cnt.cksumErr ∧ s.rdata 0x048 = s.cnt.malformed ∧
      s.rdata 0x04C = s.cnt.unknown ∧ s.rdata 0x050 = s.cnt.skipped ∧ s.rdata 0x064 = s.engine.cnt ∧
      (∀ v : Fin 5, s.rdata (0x204 + BitVec.ofNat 17 (16 * v.val)) = s.vtmap[v]) ∧
      ∀ a : Addr,
        let w := (a &&& 0x1FFFC).toNat
        (w = 0x01C ∨ w = 0x03C ∨ (0x054 ≤ w ∧ w ≤ 0x05C) ∨ (0x068 ≤ w ∧ w ≤ 0x0FC) ∨ (0x120 ≤ w ∧ w ≤ 0x1FC) ∨
          (0x200 ≤ w ∧ w < 0x250 ∧ (w % 16 = 8 ∨ w % 16 = 12)) ∨ (0x250 ≤ w ∧ w ≤ 0xFFFC)) →
        s.rdata a = 0

/-- STATUS shows the fields of rule R26 at their bits. -/
def Obligations.StatusFields : Prop :=
  (∀ s : State, s.rq.length ≤ 3 →
    let w := s.rdata 0x008
    w.extractLsb' 0 3 = s.ph.code ∧
      (w.extractLsb' 3 3).toNat = s.ctx.var.val ∧
      w.extractLsb' 6 2 = s.ctx.ftype.code ∧
      w.getLsbD 8 = s.locked ∧
      (w.extractLsb' 9 2).toNat = s.rq.length ∧
      (w.getLsbD 11 = true ↔ s.ph = .complete) ∧
      w.extractLsb' 12 4 = 0 ∧
      w.extractLsb' 16 16 = s.need) ∧
    State.reset.rdata 0x008 = 0x00010000

/-- CUR_DESC shows the latched descriptor at the bits of rule R38, with HLEN = 10 + (2 + C_FRAC). LUT_SIG[i] and VDESC_CFG[v]
show the fields that the dispatch reads at the bits of rules R42, R43. ERR_DETAIL, HDR0, HDR1, CK_LAST and CK_RESULT show
their fields at their bits (rules R30, R32, R33, R36, R40). -/
def Obligations.RecordRegisterFields : Prop :=
  (∀ s : State,
    let w := s.rdata 0x038
    w.extractLsb' 0 2 = s.ctx.alg.code ∧
      (w.extractLsb' 2 2).toNat = s.ctx.frac.val ∧
      (w.extractLsb' 4 2).toNat = s.ctx.foot.val ∧
      w.getLsbD 6 = s.ctx.ord ∧
      w.getLsbD 7 = false ∧
      w.extractLsb' 8 8 = s.ctx.off ∧
      (w.extractLsb' 16 8).toNat = 10 + (2 + s.ctx.frac.val) ∧
      w.extractLsb' 24 8 = 0) ∧
    State.reset.rdata 0x038 = 0x000C0000 ∧
    (∀ (s : State) (i : Fin 8),
      let w := s.rdata (0x100 + BitVec.ofNat 17 (4 * i.val))
      w.getLsbD 0 = s.lut[i].valid ∧
        (w.extractLsb' 1 3).toNat = s.lut[i].variant.val ∧
        w.extractLsb' 4 4 = 0 ∧
        w.extractLsb' 8 8 = s.lut[i].sync ∧
        w.extractLsb' 16 16 = s.lut[i].nibbleMask) ∧
    (∀ (s : State) (v : Fin 5),
      let w := s.rdata (0x200 + BitVec.ofNat 17 (16 * v.val))
      w.extractLsb' 0 2 = s.vcfg[v].alg.code ∧
        (w.extractLsb' 2 2).toNat = s.vcfg[v].frac.val ∧
        (w.extractLsb' 4 2).toNat = s.vcfg[v].foot.val ∧
        w.getLsbD 6 = s.vcfg[v].order ∧
        w.getLsbD 7 = false ∧
        w.extractLsb' 8 8 = s.vcfg[v].off ∧
        w.extractLsb' 16 16 = s.vcfg[v].versionMask) ∧
    ∀ s : State,
    ((s.rdata 0x018).extractLsb' 0 4 = s.err.reason.code ∧ (s.rdata 0x018).extractLsb' 4 4 = 0 ∧
      (s.rdata 0x018).extractLsb' 8 8 = s.err.byte ∧ (s.rdata 0x018).extractLsb' 16 16 = s.err.idx) ∧
    ((s.rdata 0x020).extractLsb' 0 8 = s.hdr.sync ∧ (s.rdata 0x020).extractLsb' 8 8 = s.hdr.tv ∧
      (s.rdata 0x020).extractLsb' 16 16 = s.hdr.flen) ∧
    ((s.rdata 0x024).extractLsb' 0 16 = s.hdr.idc ∧ (s.rdata 0x024).extractLsb' 16 16 = s.hdr.cells) ∧
    ((s.rdata 0x030).extractLsb' 0 16 = s.ckComp ∧ (s.rdata 0x030).extractLsb' 16 16 = s.ckRecv) ∧
    ((s.rdata 0x060).extractLsb' 0 16 = s.engine.acc ∧ (s.rdata 0x060).extractLsb' 16 2 = s.engine.alg.code ∧
      (s.rdata 0x060).extractLsb' 18 14 = 0)

/-- A window read carries the bytes the block wrote in little-endian lanes, and 0 at offsets past the frame buffer (rule
R74). The lanes of unwritten bytes are free (rule R75), and the statement says nothing of them. -/
def Obligations.WindowReadLanes : Prop :=
  ∀ (s : State) (a : Addr) (k : Nat), a.getLsbD 16 = true → k < 4 →
    let o := (a.toNat - 0x10000) / 4 * 4
    (∀ b, o + k < s.cfg.fbufBytes → s.fbuf.read (o + k) = some b → (s.rdata a).extractLsb' (8 * k) 8 = b) ∧
      (s.cfg.fbufBytes ≤ o + k → (s.rdata a).extractLsb' (8 * k) 8 = 0)

/-- Address bits 1:0 are ignored, and bit 16 selects the window (rule R72). -/
def Obligations.AddressDecode : Prop :=
  ∀ (a : Addr) (d : Word) (s : State),
    exec (.csrRead a) s = exec (.csrRead (a &&& 0x1FFFC)) s ∧
      exec (.csrWrite a d) s = exec (.csrWrite (a &&& 0x1FFFC) d) s ∧
      ((∃ o, hostWord a = .window o) ↔ a.getLsbD 16 = true)

/-- Every write is refused but those to CTRL, EVENTS, IRQ_EN, CMD and, while EN = 0, the dispatch table: it changes nothing
and sets BUS_ERR; so the writes of read-only registers, of reserved addresses and of the window (rules R46, R228). -/
def Obligations.RefusedWrites : Prop :=
  ∀ (a : Addr) (d : Word) (s : State), s.fits →
    let w := (a &&& 0x1FFFC).toNat
    let table := (0x100 ≤ w ∧ w < 0x120) ∨ (0x200 ≤ w ∧ w < 0x250 ∧ (w % 16 = 0 ∨ w % 16 = 4))
    (w ≠ 0x004 ∧ w ≠ 0x00C ∧ w ≠ 0x010 ∧ w ≠ 0x014 ∧ (table → s.en = true)) →
    s.BusErrOnly (exec (.csrWrite a d) s)

/-- A CTRL write sets EN from bit 0 and does nothing else; the step's stream part has used the old EN (rule R222). -/
def Obligations.CtrlWrite : Prop :=
  ∀ (a : Addr) (d : Word) (s : State), a &&& 0x1FFFC = 0x00004 → s.fits →
    ∃ t, idleEdge s = .next t ∧ exec (.csrWrite a d) s = .next { t with en := d.getLsbD 0 }

/-- An EVENTS write clears the bits written 1 and keeps the others, and the event of the same step is set after it (rule
R223). -/
def Obligations.EventsWriteOneToClear : Prop :=
  ∀ (a : Addr) (d : Word) (s : State), a &&& 0x1FFFC = 0x0000C → s.fits →
    ∃ t u, idleEdge s = .next t ∧ exec (.csrWrite a d) s = .next u ∧ u = { t with events := u.events } ∧
      ∀ k < 6, u.events.getLsbD k = true ↔
        (s.events.getLsbD k = true ∧ d.getLsbD k = false) ∨ ∃ e, t.evq = some e ∧ e.code.toNat = k

/-- An IRQ_EN write takes bits 5:0; the interrupt level follows from the next step on (rule R224). -/
def Obligations.IrqEnWrite : Prop :=
  ∀ (a : Addr) (d : Word) (s : State), a &&& 0x1FFFC = 0x00010 → s.fits →
    ∃ t, idleEdge s = .next t ∧ exec (.csrWrite a d) s = .next { t with irqEn := d.extractLsb' 0 6 } ∧
      ∀ (i : Instr) (u v : State), exec (.csrWrite a d) s = .next u → exec i u = .next v →
        (v.out.irq = true ↔ ∃ k < 6, t.events.getLsbD k = true ∧ d.getLsbD k = true)

/-- A LUT_SIG write with EN = 0 leaves the word of rule R225, keeping the old VARIANT where the written one is illegal; with
EN = 1 it is refused. -/
def Obligations.LutSigWrite : Prop :=
  ∀ (i : Fin 8) (d : Word) (s : State), s.fits →
    let a : Addr := 0x100 + BitVec.ofNat 17 (4 * i.val)
    let var : BitVec 3 := if 4 < d.extractLsb' 1 3 then (s.rdata a).extractLsb' 1 3 else d.extractLsb' 1 3
    let err : BitVec 6 := if 4 < d.extractLsb' 1 3 then 0x20 else 0
    (s.en = true → s.BusErrOnly (exec (.csrWrite a d) s)) ∧
    (s.en = false →
      ∃ t u, idleEdge s = .next t ∧ exec (.csrWrite a d) s = .next u ∧
        u = { t with lut := u.lut, events := t.events ||| err } ∧
        (∀ j : Fin 8, j ≠ i → u.lut[j] = s.lut[j]) ∧
        u.rdata a =
          (d.extractLsb' 8 24).setWidth 32 <<< 8 ||| var.setWidth 32 <<< 1 ||| (d.extractLsb' 0 1).setWidth 32)

/-- A VDESC_CFG write with EN = 0 leaves the word of rule R226, keeping each old field whose written code is 3; with EN = 1
it is refused. -/
def Obligations.VdescCfgWrite : Prop :=
  ∀ (v : Fin 5) (d : Word) (s : State), s.fits →
    let a : Addr := 0x200 + BitVec.ofNat 17 (16 * v.val)
    let old := s.rdata a
    let kept (lo : Nat) : BitVec 2 := if d.extractLsb' lo 2 = 3 then old.extractLsb' lo 2 else d.extractLsb' lo 2
    let err : BitVec 6 :=
      if d.extractLsb' 0 2 = 3 ∨ d.extractLsb' 2 2 = 3 ∨ d.extractLsb' 4 2 = 3 then 0x20 else 0
    (s.en = true → s.BusErrOnly (exec (.csrWrite a d) s)) ∧
    (s.en = false →
      ∃ t u, idleEdge s = .next t ∧ exec (.csrWrite a d) s = .next u ∧
        u = { t with vcfg := u.vcfg, events := t.events ||| err } ∧
        (∀ w : Fin 5, w ≠ v → u.vcfg[w] = s.vcfg[w]) ∧
        u.rdata a =
          (d.extractLsb' 8 24).setWidth 32 <<< 8 ||| (d.extractLsb' 6 1).setWidth 32 <<< 6 |||
            (kept 4).setWidth 32 <<< 4 ||| (kept 2).setWidth 32 <<< 2 ||| (kept 0).setWidth 32)

/-- A VDESC_TMAP write with EN = 0 stores the whole word; with EN = 1 it is refused (rule R227). -/
def Obligations.VdescTmapWrite : Prop :=
  ∀ (v : Fin 5) (d : Word) (s : State), s.fits →
    let a : Addr := 0x204 + BitVec.ofNat 17 (16 * v.val)
    (s.en = true → s.BusErrOnly (exec (.csrWrite a d) s)) ∧
    (s.en = false →
      ∃ t u, idleEdge s = .next t ∧ exec (.csrWrite a d) s = .next u ∧ u = { t with vtmap := u.vtmap } ∧
        u.vtmap[v] = d ∧ ∀ w : Fin 5, w ≠ v → u.vtmap[w] = s.vtmap[w])

/-! ## Commands -/

/-- The reserved CMD words have no effect but BUS_ERR, written by CSR_WRITE, and as CK_INIT with the algorithm code 3 (rules
R95, R234). -/
def Obligations.ReservedCommandWords : Prop :=
  ∀ (a : Addr) (d : Word) (s : State), addressesCmd a = true → s.fits →
    let op := (d.extractLsb' 0 8).toNat
    let arg := d.extractLsb' 8 8
    (d.extractLsb' 16 16 ≠ 0 ∨ (3 < op ∧ op ≠ 0x10 ∧ op ≠ 0x11) ∨ (op ≤ 3 ∧ arg ≠ 0) ∨
      (op = 0x10 ∧ (arg.extractLsb' 0 2 = 3 ∨ arg.extractLsb' 2 6 ≠ 0)) →
      s.BusErrOnly (exec (.csrWrite a d) s)) ∧
    s.BusErrOnly (exec (.ckInit 3) s)

/-- NOP changes no state: its step is the idle step. With a nonzero ARG or MBZ the word is refused (rule R230). -/
def Obligations.NopEffect : Prop :=
  ∀ s : State, s.fits →
    (∃ t, idleEdge s = .next t ∧ exec .nop s = .next t) ∧
    ∀ (a : Addr) (d : Word), addressesCmd a = true → d.extractLsb' 0 8 = 0 → d.extractLsb' 8 24 ≠ 0 →
      s.BusErrOnly (exec (.csrWrite a d) s)

/-- ABORT, in every phase and with either EN: after the step's stream part the phase is AwaitingHeader, IDX 0, RQ empty and
LOCKED 0, and nothing else is changed. With a nonzero ARG or MBZ the word is refused (rule R231). -/
def Obligations.AbortEffect : Prop :=
  ∀ s : State, s.fits →
    (∃ t, idleEdge s = .next t ∧
      exec .abort s = .next { t with ph := .awaitingHeader, idx := 0, rq := [], locked := false }) ∧
    ∀ (a : Addr) (d : Word), addressesCmd a = true → d.extractLsb' 0 8 = 1 → d.extractLsb' 8 24 ≠ 0 →
      s.BusErrOnly (exec (.csrWrite a d) s)

/-- RELEASE after a stream part that leaves Complete: hunting again, LOCKED kept, nothing else changed. After one that leaves
any other phase it is refused. So is its word with a nonzero ARG or MBZ, in every phase (rule R232). -/
def Obligations.ReleaseEffect : Prop :=
  ∀ s : State, s.fits →
    (∃ t, idleEdge s = .next t ∧
      (t.ph = .complete → exec .release s = .next { t with ph := .awaitingHeader, idx := 0 }) ∧
      (t.ph ≠ .complete → exec .release s = .next { t with events := t.events ||| 0x20 })) ∧
    ∀ (a : Addr) (d : Word), addressesCmd a = true → d.extractLsb' 0 8 = 2 → d.extractLsb' 8 24 ≠ 0 →
      s.BusErrOnly (exec (.csrWrite a d) s)

/-- A held frame is returned by RELEASE: from Complete with nothing else in the step. -/
def Obligations.ReleaseFromComplete : Prop :=
  ∀ s : State, s.ph = .complete →
    exec .release s =
      .next { s with ph := .awaitingHeader, idx := 0, evq := none, out := s.outputs none }

/-- CLR_COUNTERS leaves each counter 1 where the step's stream part incremented it and 0 where not, and changes nothing
else; with a nonzero ARG or MBZ the word is refused (rule R233). -/
def Obligations.ClrCountersEffect : Prop :=
  ∀ s : State, s.fits →
    (∃ t, idleEdge s = .next t ∧
      exec .clrCounters s = .next
        { t with
          cnt :=
            { framesOk := if t.cnt.framesOk = s.cnt.framesOk then 0 else 1
              cksumErr := if t.cnt.cksumErr = s.cnt.cksumErr then 0 else 1
              malformed := if t.cnt.malformed = s.cnt.malformed then 0 else 1
              unknown := if t.cnt.unknown = s.cnt.unknown then 0 else 1
              skipped := if t.cnt.skipped = s.cnt.skipped then 0 else 1 } }) ∧
    ∀ (a : Addr) (d : Word), addressesCmd a = true → d.extractLsb' 0 8 = 3 → d.extractLsb' 8 24 ≠ 0 →
      s.BusErrOnly (exec (.csrWrite a d) s)

/-- CK_INIT with a legal code restarts the engine: CK_ALG, the initial value of rule R117, CK_CNT 0; nothing else. With the
code 3, a nonzero ARG[7:2] or a nonzero MBZ the word is refused (rule R125). -/
def Obligations.CkInitEffect : Prop :=
  ∀ s : State, s.fits →
    (∃ t, idleEdge s = .next t ∧
      exec (.ckInit 0) s = .next { t with engine := { alg := .ccitt, acc := 0xFFFF, cnt := 0 } } ∧
      exec (.ckInit 1) s = .next { t with engine := { alg := .crc16, acc := s.cfg.crc16Init, cnt := 0 } } ∧
      exec (.ckInit 2) s = .next { t with engine := { alg := .xorSum, acc := 0x0000, cnt := 0 } }) ∧
    ∀ (a : Addr) (d : Word), addressesCmd a = true → d.extractLsb' 0 8 = 0x10 →
      d.extractLsb' 8 2 = 3 ∨ d.extractLsb' 10 22 ≠ 0 → s.BusErrOnly (exec (.csrWrite a d) s)

/-- CK_BYTE feeds one byte: CK_ACC by the engine's algorithm at the position CK_CNT, CK_CNT + 1 modulo 2^32; nothing
else. -/
def Obligations.CkByteEffect : Prop :=
  ∀ (b : Byte) (s : State), s.fits →
    ∃ t, idleEdge s = .next t ∧
      exec (.ckByte b) s = .next
        { t with
          engine :=
            { alg := s.engine.alg
              acc := match s.engine.alg with
                | .ccitt => updCcitt s.engine.acc b
                | .crc16 => updCrc16 s.engine.acc b
                | .xorSum =>
                  if s.engine.cnt.toNat % 2 = 0 then s.engine.acc ^^^ (b ++ (0 : Byte))
                  else s.engine.acc ^^^ ((0 : Byte) ++ b)
              cnt := BitVec.ofNat 32 ((s.engine.cnt.toNat + 1) % 2 ^ 32) } }

/-- After CK_INIT(alg) and CK_BYTE of each byte of `d`, CK_ACC = cks(alg, d) and CK_CNT = n mod 2^32, whatever the stream
does meanwhile (rule R126). -/
def Obligations.EngineComputesTheStrategy : Prop :=
  ∀ (alg : CkAlg) (d : List Byte) (s : State), s.Inv →
    ∃ t, execAll (.ckInit alg.code :: d.map .ckByte) s = .next t ∧
      t.engine = { alg := alg, acc := cks s.cfg alg d, cnt := BitVec.ofNat 32 d.length }

/-- The engine and the rest of the block do not read each other: what a step leaves outside the engine and the word read
does not depend on the engine, and what it leaves in the engine depends on nothing but the engine (rules R123, R124). -/
def Obligations.EngineIsIndependent : Prop :=
  (∀ (i : Instr) (s t : State) (e : Engine), exec i s = .next t →
    ∃ u, exec i { s with engine := e } = .next u ∧
      { u with engine := t.engine, out := { u.out with rdata := t.out.rdata } } = t) ∧
    ∀ (i : Instr) (s s' t t' : State), exec i s = .next t → exec i s' = .next t' →
      s.engine = s'.engine → s.cfg.crc16Init = s'.cfg.crc16Init → t.engine = t'.engine

/-! ## The stream -/

/-- An idle step changes nothing but EVQ (rule R191); the model also records the step's outputs (log 4). -/
def Obligations.IdleStep : Prop :=
  ∀ s : State, s.ph ≠ .faulted → (s.rq = [] ∨ s.en = false) → (s.offer = none ∨ s.inReady = false) →
    idleEdge s = .next { s with evq := none, out := s.outputs none }

/-- in_ready is 1 iff EN = 1, RQ is empty and the phase is neither Complete nor Faulted; a byte offered is taken in exactly
those steps (rules R56, R172). That an untaken byte stays on the port in every other step is the model's reading (log 15): rule
R297 lets the source drop it as well, which is a line without hold. -/
def Obligations.ByteTakenExactlyWhenReady : Prop :=
  ∀ (b : Byte) (s : State), s.fits →
    (s.inReady = true ↔ s.en = true ∧ s.rq = [] ∧ s.ph ≠ .complete ∧ s.ph ≠ .faulted) ∧
      ∃ t, exec (.streamByte b) s = .next t ∧ t.out.inReady = s.inReady ∧
        (s.inReady = true → t.offer = none) ∧ (s.inReady = false → t.offer = some b)

/-- Hunting: a byte that is no candidate is counted. Without lock nothing else happens; after an accepted frame it is
BAD_SYNC (rules R175, R176, R252, R262). -/
def Obligations.HuntDiscards : Prop :=
  ∀ (b : Byte) (s : State), s.inReady = true → s.idx = 0 → ¬ s.Candidate b →
    (s.locked = false →
      exec (.streamByte b) s = .next
        { s with
          cnt := { s.cnt with skipped := s.cnt.skipped + 1 }
          offer := none
          evq := none
          out := s.outputs none }) ∧
    (s.locked = true →
      exec (.streamByte b) s = .next
        { s with
          cnt := { s.cnt with skipped := s.cnt.skipped + 1, malformed := s.cnt.malformed + 1 }
          ph := .faulted
          err := { reason := .badSync, byte := b, idx := 0 }
          locked := false
          events := s.events ||| 0x04
          offer := none
          evq := some .malformedHeader
          out := s.outputs none })

/-- A sync candidate at IDX = 0 begins a frame (rules R118, R142). -/
def Obligations.SyncAccept : Prop :=
  ∀ (b : Byte) (s : State), s.inReady = true → s.cfg.wf = true → s.idx = 0 → s.Candidate b →
    exec (.streamByte b) s = .next
      { s with
        fbuf := s.fbuf.write 0 b
        hdr := { sync := b, tv := 0, flen := 0, idc := 0, cells := 0, soc := 0, frac := 0 }
        ctx := { var := 0, ftype := .configuration, alg := .ccitt, frac := 0, foot := 0, ord := false, off := 0 }
        acc := { cc := updCcitt 0xFFFF b, c16 := updCrc16 s.cfg.crc16Init b, x := b ++ (0 : Byte) }
        idx := 1
        ph := .awaitingHeader
        offer := none
        evq := none
        out := s.outputs none }

/-- Byte 1 with an entry that selects a variant whose version mask has the version: the descriptor is latched (rules R143,
R202 to R206). -/
def Obligations.DispatchLatchesTheVariant : Prop :=
  ∀ (b : Byte) (s : State) (i : Fin 8), s.inReady = true → s.cfg.wf = true → s.idx = 1 →
    s.Selects i s.hdr.sync (b.extractLsb' 4 4) →
    let v := s.lut[i].variant
    let c := s.vcfg[v]
    c.versionMask.getLsbD (b.extractLsb' 0 4).toNat = true →
    ∃ t, exec (.streamByte b) s = .next t ∧
      t.ctx.ftype.code = s.vtmap[v].extractLsb' (2 * (b.extractLsb' 4 4).toNat) 2 ∧
      t =
        { s with
          fbuf := s.fbuf.write 1 b
          hdr := { s.hdr with tv := b }
          acc := { cc := updCcitt s.acc.cc b, c16 := updCrc16 s.acc.c16 b, x := s.acc.x ^^^ ((0 : Byte) ++ b) }
          ctx :=
            { var := v, ftype := t.ctx.ftype, alg := c.alg, frac := c.frac, foot := c.foot, ord := c.order,
              off := c.off }
          idx := 2
          ph := .awaitingHeader
          offer := none
          evq := none
          out := s.outputs none }

/-- Byte 1 that no entry selects raises UNKNOWN_PROTOCOL; byte 1 of a version the selected variant's mask lacks raises
BAD_VERSION. Both replay the byte (rules R143, R203, R204, R262). -/
def Obligations.DispatchFailures : Prop :=
  ∀ (b : Byte) (s : State), s.inReady = true → s.cfg.wf = true → s.idx = 1 →
    let taken : State :=
      { s with
        fbuf := s.fbuf.write 1 b
        hdr := { s.hdr with tv := b }
        acc := { cc := updCcitt s.acc.cc b, c16 := updCrc16 s.acc.c16 b, x := s.acc.x ^^^ ((0 : Byte) ++ b) }
        ph := .faulted
        rq := [b]
        locked := false
        offer := none
        out := s.outputs none }
    ((∀ i : Fin 8, ¬ s.EntryMatches i s.hdr.sync (b.extractLsb' 4 4)) →
      exec (.streamByte b) s = .next
        { taken with
          err := { reason := .unknownSignature, byte := b, idx := 1 }
          cnt := { s.cnt with unknown := s.cnt.unknown + 1 }
          events := s.events ||| 0x08
          evq := some .unknownProtocol }) ∧
    (∀ i : Fin 8, s.Selects i s.hdr.sync (b.extractLsb' 4 4) →
      s.vcfg[s.lut[i].variant].versionMask.getLsbD (b.extractLsb' 0 4).toNat = false →
      exec (.streamByte b) s = .next
        { taken with
          err := { reason := .badVersion, byte := b, idx := 1 }
          cnt := { s.cnt with malformed := s.cnt.malformed + 1 }
          events := s.events ||| 0x04
          evq := some .malformedHeader })

/-- Byte 2 is the length's high byte, byte 3 its low byte. A length from Lmin to FBUF_BYTES is accepted; one below Lmin is
LENGTH_TOO_SMALL, one above FBUF_BYTES LENGTH_TOO_LARGE, and both replay the frame bytes 1, 2 and 3 (rules R119, R144 to
R146, R262). -/
def Obligations.LengthBytes : Prop :=
  (∀ (b : Byte) (s : State), s.inReady = true → s.cfg.wf = true → s.idx = 2 →
    exec (.streamByte b) s = .next
      { s with
        fbuf := s.fbuf.write 2 b
        hdr := { s.hdr with flen := b ++ (0 : Byte) }
        acc := { cc := updCcitt s.acc.cc b, c16 := updCrc16 s.acc.c16 b, x := s.acc.x ^^^ (b ++ (0 : Byte)) }
        idx := 3
        ph := .awaitingHeader
        offer := none
        evq := none
        out := s.outputs none }) ∧
  ∀ (b hi : Byte) (s : State), s.inReady = true → s.cfg.wf = true → s.idx = 3 → s.hdr.flen = hi ++ (0 : Byte) →
      let len : Half := hi ++ b
      let taken : State :=
        { s with
          fbuf := s.fbuf.write 3 b
          hdr := { s.hdr with flen := len }
          acc := { cc := updCcitt s.acc.cc b, c16 := updCrc16 s.acc.c16 b, x := s.acc.x ^^^ ((0 : Byte) ++ b) }
          offer := none
          evq := none
          out := s.outputs none }
      let failed : State :=
        { taken with
          ph := .faulted
          rq := [s.hdr.tv, hi, b]
          locked := false
          cnt := { s.cnt with malformed := s.cnt.malformed + 1 }
          events := s.events ||| 0x04
          evq := some .malformedHeader }
      (s.minLen ≤ len → len.toNat ≤ s.cfg.fbufBytes →
        exec (.streamByte b) s = .next { taken with idx := 4, ph := .awaitingHeader }) ∧
      (len < s.minLen →
        exec (.streamByte b) s = .next { failed with err := { reason := .lengthTooSmall, byte := b, idx := 3 } }) ∧
      (s.cfg.fbufBytes < len.toNat →
        exec (.streamByte b) s = .next { failed with err := { reason := .lengthTooLarge, byte := b, idx := 3 } })

/-- A byte at index 4 to L-2 is stored, accumulated below CS, captured by at most its field, kept as the first checksum byte
at CS, and moves the phase (rules R119, R147 to R149, R151, R152, R179). -/
def Obligations.BodyByte : Prop :=
  ∀ (b : Byte) (s : State), s.inReady = true → 4 ≤ s.idx.toNat → s.idx.toNat + 1 < s.hdr.flen.toNat →
    s.hdr.flen.toNat ≤ s.cfg.fbufBytes →
    let j := s.idx.toNat
    let inCells := s.hasCells = true ∧ (j = s.ctx.off.toNat ∨ j = s.ctx.off.toNat + 1)
    exec (.streamByte b) s = .next
      { s with
        fbuf := s.fbuf.write j b
        acc :=
          if j + 2 < s.hdr.flen.toNat then
            { cc := updCcitt s.acc.cc b
              c16 := updCrc16 s.acc.c16 b
              x := if j % 2 = 0 then s.acc.x ^^^ (b ++ (0 : Byte)) else s.acc.x ^^^ ((0 : Byte) ++ b) }
          else s.acc
        hdr :=
          { s.hdr with
            idc := if j = 4 ∨ j = 5 then s.hdr.idc <<< 8 ||| b.setWidth 16 else s.hdr.idc
            soc := if 6 ≤ j ∧ j ≤ 9 then s.hdr.soc <<< 8 ||| b.setWidth 32 else s.hdr.soc
            frac := if 10 ≤ j ∧ j < 12 + s.ctx.frac.val then s.hdr.frac <<< 8 ||| b.setWidth 32 else s.hdr.frac
            cells := if inCells then s.hdr.cells <<< 8 ||| b.setWidth 16 else s.hdr.cells }
        ckr0 := if j + 2 = s.hdr.flen.toNat then b else s.ckr0
        idx := BitVec.ofNat 16 (j + 1)
        ph := s.phaseOf (BitVec.ofNat 16 (j + 1))
        offer := none
        evq := none
        out := s.outputs none }

/-- The last byte, the compare: with the computed checksum equal to the received one the frame is accepted; with the two
differing it is CHECKSUM_MISMATCH, without a replay, and the frame is dropped (rules R120 to R122, R190, R257, R262). -/
def Obligations.LastByteCompares : Prop :=
  ∀ (b : Byte) (s : State), s.inReady = true → 4 ≤ s.idx.toNat → s.idx.toNat + 1 = s.hdr.flen.toNat →
    s.hdr.flen.toNat ≤ s.cfg.fbufBytes →
    let recv : Half := if s.ctx.ord then b ++ s.ckr0 else s.ckr0 ++ b
    let comp : Half := match s.ctx.alg with
      | .ccitt => s.acc.cc
      | .crc16 => s.acc.c16
      | .xorSum => s.acc.x
    let taken : State :=
      { s with
        fbuf := s.fbuf.write s.idx.toNat b
        ckComp := comp
        ckRecv := recv
        offer := none
        out := s.outputs none }
    (comp = recv →
      exec (.streamByte b) s = .next
        { taken with
          idx := s.hdr.flen
          ph := .complete
          locked := true
          cnt := { s.cnt with framesOk := s.cnt.framesOk + 1 }
          events := s.events ||| 0x01
          evq := some .frameOk }) ∧
    (comp ≠ recv →
      exec (.streamByte b) s = .next
        { taken with
          ph := .faulted
          err := { reason := .checksumMismatch, byte := b, idx := s.idx }
          locked := false
          cnt := { s.cnt with cksumErr := s.cnt.cksumErr + 1 }
          events := s.events ||| 0x02
          evq := some .checksumMismatch })

/-- A replay step processes the head of the queue exactly as if the byte had arrived on the port, and puts what it replays
itself in front of the rest (rules R180, R262, R265). -/
def Obligations.ReplayIsAsIfFromThePort : Prop :=
  ∀ (b : Byte) (q : List Byte) (s : State), s.en = true → s.ph = .awaitingHeader → s.rq = b :: q → s.fits →
    ∃ t, exec (.streamByte b) { s with rq := [] } = .next t ∧
      idleEdge s = .next { t with rq := t.rq ++ q, offer := s.offer, out := s.outputs none }

/-- Faulted lasts one step: whatever the operation, EN and the offered byte, the next phase is AwaitingHeader with IDX 0, no
byte is taken or processed, and the frame's records stay (rule R182). -/
def Obligations.FaultedLastsOneStep : Prop :=
  ∀ (i : Instr) (s : State), s.ph = .faulted →
    ∃ t, exec i s = .next t ∧ t.ph = .awaitingHeader ∧ t.idx = 0 ∧ t.evq = none ∧ t.err = s.err ∧ t.fbuf = s.fbuf ∧
      t.hdr = s.hdr ∧ t.ctx = s.ctx ∧ t.acc = s.acc ∧ t.offer = (s.presenting i).offer ∧
      (t.rq = s.rq ∨ (t.rq = [] ∧ WritesCmd i 0x00000001))

/-- While the phase is Complete no byte is taken and the held frame does not change, whatever the operation but RELEASE and
ABORT, written in either form (rules R85, R173, R183). -/
def Obligations.CompleteHoldsTheFrame : Prop :=
  ∀ (i : Instr) (s : State), s.ph = .complete →
    ∃ t, exec i s = .next t ∧ t.fbuf = s.fbuf ∧ t.hdr = s.hdr ∧ t.ctx = s.ctx ∧ t.acc = s.acc ∧
      t.ckComp = s.ckComp ∧ t.ckRecv = s.ckRecv ∧ t.err = s.err ∧ t.offer = (s.presenting i).offer ∧
      (¬ WritesCmd i 0x00000001 → ¬ WritesCmd i 0x00000002 →
        t.ph = .complete ∧ t.idx = s.idx ∧ t.locked = s.locked ∧ t.rq = s.rq)

/-- FBUF changes in no step but at the frame index of a byte the step accepts into the frame, where it then holds that byte
(rule R73). -/
def Obligations.FrameBufferFrame : Prop :=
  ∀ (i : Instr) (s t : State), exec i s = .next t →
    (∀ a : Nat, a ≠ s.idx.toNat → t.fbuf.read a = s.fbuf.read a) ∧
      ((∀ b, s.ProcessesByte i b → s.idx = 0 ∧ ¬ s.Candidate b) → t.fbuf = s.fbuf) ∧
      ∀ b, s.ProcessesByte i b → (s.idx ≠ 0 ∨ s.Candidate b) → t.fbuf.read s.idx.toNat = some b

/-- The dispatch table and the descriptors change by a CSR_WRITE with EN = 0 and by nothing else (rules R47, R208). -/
def Obligations.DispatchTableIsReadOnlyWhileEnabled : Prop :=
  ∀ (i : Instr) (s t : State), exec i s = .next t → (s.en = true ∨ ∀ a d, i ≠ .csrWrite a d) →
    t.lut = s.lut ∧ t.vcfg = s.vcfg ∧ t.vtmap = s.vtmap

/-- The counters follow the events of each step but one that clears them: each event counts once in its own counter, and
CNT_SKIPPED counts exactly the discarded bytes (rules R39, R264). -/
def Obligations.CountersFollowTheEvents : Prop :=
  ∀ (i : Instr) (s t : State), exec i s = .next t → ¬ WritesCmd i 0x00000003 →
    t.cnt.framesOk = s.cnt.framesOk + (if t.evq = some .frameOk then 1 else 0) ∧
      t.cnt.cksumErr = s.cnt.cksumErr + (if t.evq = some .checksumMismatch then 1 else 0) ∧
      t.cnt.malformed = s.cnt.malformed + (if t.evq = some .malformedHeader then 1 else 0) ∧
      t.cnt.unknown = s.cnt.unknown + (if t.evq = some .unknownProtocol then 1 else 0) ∧
      ((∃ b, s.ProcessesByte i b ∧ s.idx = 0 ∧ ¬ s.Candidate b) → t.cnt.skipped = s.cnt.skipped + 1) ∧
      (¬ (∃ b, s.ProcessesByte i b ∧ s.idx = 0 ∧ ¬ s.Candidate b) → t.cnt.skipped = s.cnt.skipped)

/-- Every error event records the byte processed, its frame index and a reason of its kind, at the index of the reason's
row, which for CHECKSUM_MISMATCH is L - 1 in every state of the invariant; a step without an error event leaves ERR_DETAIL
(rules R30, R252, R263). -/
def Obligations.ErrorRecords : Prop :=
  ∀ (i : Instr) (s t : State), exec i s = .next t →
    ((t.evq = none ∨ t.evq = some .frameOk) → t.err = s.err) ∧
    ((t.evq ≠ none ∧ t.evq ≠ some .frameOk) →
      t.locked = false ∧ t.err.idx = s.idx ∧ s.ProcessesByte i t.err.byte ∧
        ((t.evq = some .malformedHeader ∧ t.err.reason = .badSync ∧ s.idx = 0 ∧ s.locked = true) ∨
          (t.evq = some .unknownProtocol ∧ t.err.reason = .unknownSignature ∧ s.idx = 1) ∨
          (t.evq = some .malformedHeader ∧ t.err.reason = .badVersion ∧ s.idx = 1) ∨
          (t.evq = some .malformedHeader ∧ t.err.reason = .lengthTooSmall ∧ s.idx = 3) ∨
          (t.evq = some .malformedHeader ∧ t.err.reason = .lengthTooLarge ∧ s.idx = 3) ∨
          (t.evq = some .checksumMismatch ∧ t.err.reason = .checksumMismatch ∧ 4 ≤ s.idx.toNat ∧
            (s.Inv → s.idx.toNat + 1 = s.hdr.flen.toNat))))

/-- BUS_ERR is raised by no operation but a CSR_WRITE, a RELEASE and a CK_INIT with the code 3, and never by a read (rule
R258). -/
def Obligations.BusErrOnlyFromWriteReleaseOrCkInit3 : Prop :=
  ∀ (i : Instr) (s t : State), exec i s = .next t → s.events.getLsbD 5 = false → t.events.getLsbD 5 = true →
    (∃ a d, i = .csrWrite a d) ∨ i = .release ∨ i = .ckInit 3

/-- The outputs of a step are those of its pre-state, and rdata is the word read (rules R57, R266). -/
def Obligations.MooreOutputs : Prop :=
  ∀ (i : Instr) (s t : State), exec i s = .next t →
    (t.out.inReady = true ↔ s.en = true ∧ s.rq = [] ∧ s.ph ≠ .complete ∧ s.ph ≠ .faulted) ∧
      (t.out.frameAvail = true ↔ s.ph = .complete) ∧
      (t.out.irq = true ↔ ∃ k < 6, s.events.getLsbD k = true ∧ s.irqEn.getLsbD k = true) ∧
      (t.out.evValid = true ↔ s.evq ≠ none) ∧
      (∀ e, s.evq = some e → t.out.evCode = e.code) ∧
      (s.evq = none → t.out.evCode = 0) ∧
      t.out.variant.toNat = s.ctx.var.val ∧
      ∀ a, i = .csrRead a → t.out.rdata = some (s.rdata a)

/-! ## Geometry and dispatch -/

/-- The frame geometry in numbers: H, BS, FOOT and Lmin from the latched context, with Lmin from 14 to 261 (rules R141,
R146); and, once the length checks hold, CS, FS and the phase of every index from 4 on (rules R141, R177). -/
def Obligations.FrameGeometry : Prop :=
  ∀ s : State,
    let H := 12 + s.ctx.frac.val
    let cells := s.ctx.ftype = .configuration ∧ H ≤ s.ctx.off.toNat
    let BS := if cells then s.ctx.off.toNat + 2 else H
    let FOOT := if s.ctx.ftype = .configuration then s.ctx.foot.val else 0
    s.headerLen.toNat = H ∧ (s.hasCells = true ↔ cells) ∧ s.bodyStart.toNat = BS ∧ s.footLen.toNat = FOOT ∧
      s.minLen.toNat = BS + FOOT + 2 ∧ 14 ≤ s.minLen.toNat ∧ s.minLen.toNat ≤ 261 ∧
      (s.LengthOk →
        s.cksumStart.toNat = s.hdr.flen.toNat - 2 ∧ s.footStart.toNat = s.hdr.flen.toNat - 2 - FOOT ∧
          H ≤ BS ∧ BS ≤ s.footStart.toNat ∧ s.footStart.toNat ≤ s.cksumStart.toNat ∧
          let CS := s.hdr.flen.toNat - 2
          let FS := CS - FOOT
          ∀ i : Half, 4 ≤ i.toNat →
            (s.phaseOf i = .awaitingHeader ↔ i.toNat < H) ∧
              (s.phaseOf i = .headerParsed ↔ H ≤ i.toNat ∧ i.toNat < BS) ∧
              (s.phaseOf i = .parsingCells ↔ BS ≤ i.toNat ∧ i.toNat < FS) ∧
              (s.phaseOf i = .awaitingFooter ↔ FS ≤ i.toNat ∧ i.toNat < CS) ∧
              (s.phaseOf i = .awaitingChecksum ↔ CS ≤ i.toNat))

/-- In the phases 0..4 NEED is at least 1, and IDX + NEED is the end of the phase's index range; in Complete and Faulted it
is 0 (rule R184). -/
def Obligations.NeedReport : Prop :=
  ∀ s : State, s.Inv →
    (s.ph = .complete ∨ s.ph = .faulted → s.need = 0) ∧
      (s.ph.receiving → 1 ≤ s.need.toNat) ∧
      (s.ph = .awaitingHeader → s.idx.toNat ≤ 1 → s.need = 1) ∧
      (s.ph = .awaitingHeader → 2 ≤ s.idx.toNat → s.idx.toNat + s.need.toNat = s.headerLen.toNat) ∧
      (s.ph = .headerParsed → s.idx.toNat + s.need.toNat = s.bodyStart.toNat) ∧
      (s.ph = .parsingCells → s.idx.toNat + s.need.toNat = s.footStart.toNat) ∧
      (s.ph = .awaitingFooter → s.idx.toNat + s.need.toNat = s.cksumStart.toNat) ∧
      (s.ph = .awaitingChecksum → s.idx.toNat + s.need.toNat = s.hdr.flen.toNat)

/-! ## Checksums -/

/-- The check values of rule R129. -/
def Obligations.CheckValues : Prop :=
  let cfg : Config := { fbufBytes := 65536, crc16Init := 0xFFFF }
  let arc : Config := { fbufBytes := 65536, crc16Init := 0x0000 }
  let digits : List Byte := [0x31, 0x32, 0x33, 0x34, 0x35, 0x36, 0x37, 0x38, 0x39]
  cks cfg .ccitt digits = 0x29B1 ∧ cks cfg .crc16 digits = 0x4B37 ∧ cks cfg .xorSum digits = 0x3908 ∧
    cks arc .crc16 digits = 0xBB3D ∧
    cks cfg .ccitt [] = 0xFFFF ∧ cks cfg .crc16 [] = 0xFFFF ∧ cks cfg .xorSum [] = 0x0000 ∧
    cks cfg .ccitt [0x00] = 0xE1F0 ∧ cks cfg .crc16 [0x00] = 0x40BF ∧ cks cfg .xorSum [0x00] = 0x0000 ∧
    cks cfg .ccitt [0xFF] = 0xFF00 ∧ cks cfg .crc16 [0xFF] = 0x00FF ∧ cks cfg .xorSum [0xFF] = 0xFF00 ∧
    cks cfg .ccitt [0x00, 0x00] = 0x1D0F ∧ cks cfg .crc16 [0x00, 0x00] = 0xB001 ∧ cks cfg .xorSum [0x00, 0x00] = 0x0000 ∧
    cks cfg .ccitt [0xFF, 0xFF] = 0x0000 ∧ cks cfg .crc16 [0xFF, 0xFF] = 0x0000 ∧ cks cfg .xorSum [0xFF, 0xFF] = 0xFFFF ∧
    cks cfg .ccitt [0x41] = 0xB915 ∧ cks cfg .crc16 [0x41] = 0x707F ∧ cks cfg .xorSum [0x41] = 0x4100 ∧
    cks cfg .ccitt [0xAA] = 0xF550 ∧ cks cfg .crc16 [0xAA] = 0x3F3F ∧ cks cfg .xorSum [0xAA] = 0xAA00 ∧
    cks cfg .ccitt [0xAA, 0x01] = 0xFF9B ∧ cks cfg .crc16 [0xAA, 0x01] = 0xD0BE ∧ cks cfg .xorSum [0xAA, 0x01] = 0xAA01 ∧
    cks cfg .ccitt [0x01, 0x02, 0x03] = 0xADAD ∧ cks cfg .crc16 [0x01, 0x02, 0x03] = 0x6161 ∧
    cks cfg .xorSum [0x01, 0x02, 0x03] = 0x0202 ∧
    updCcitt 0x0000 0x01 = 0x1021 ∧ updCcitt 0x0000 0x80 = 0x9188 ∧
    updCrc16 0x0000 0x01 = 0xC0C1 ∧ updCrc16 0x0000 0x80 = 0xA001

/-- The XOR-sum is the XOR of the big-endian 16-bit words, an odd last byte counting as a word with low byte 0 (rule
R116). -/
def Obligations.XorSumIsXorOfWords : Prop :=
  ∀ (cfg : Config) (d : List Byte), cks cfg .xorSum d = xorOfWords d

/-- Changing any one byte of a sequence changes each strategy's value. Rule R128 says it of one flipped bit; every change of
one byte is covered here. -/
def Obligations.ChecksumDetectsAnyOneByte : Prop :=
  ∀ (cfg : Config) (alg : CkAlg) (d : List Byte) (k : Nat) (b : Byte) (h : k < d.length), d[k] ≠ b →
    cks cfg alg (d.set k b) ≠ cks cfg alg d

/-! ## The invariants -/

/-- The reset state meets the invariant and the frame invariant. -/
def Obligations.InvariantsAtReset : Prop := State.reset.Inv ∧ State.reset.FrameInv

/-- In every state that meets the invariant every operation completes: no fault is reached (rules R73, R274). -/
def Obligations.NoFaultUnderTheInvariant : Prop :=
  ∀ (i : Instr) (s : State), s.Inv → ∃ t, exec i s = .next t

/-- Every step keeps the invariant, and there is always a next state. -/
def Obligations.StepKeepsTheInvariant : Prop :=
  ∀ s : State, s.Inv → ∃ t, step s = .next t ∧ t.Inv

/-- Every step keeps what the block holds of the current frame: FBUF has its bytes, the header registers its fields, the
accumulators the three checksums of the bytes before CS, and an accepted frame's trailer is its checksum (rules R49, R85,
R97, R99, R119). -/
def Obligations.StepKeepsTheFrameInvariant : Prop :=
  ∀ s t : State, s.Inv → s.FrameInv → step s = .next t → t.FrameInv

/-- A frame is accepted only with its checksum right, and rejected at its last byte only with it wrong: FBUF then holds `d`,
the L bytes of the frame, and the event tells whether the latched algorithm's value over the bytes before the checksum is
the one `d` ends with, in the latched byte order (rules R110, R122, R190). -/
def Obligations.EventTellsWhetherTheChecksumMatches : Prop :=
  ∀ (i : Instr) (s t : State), s.Inv → s.FrameInv → exec i s = .next t →
    (t.evq = some .frameOk ∨ t.evq = some .checksumMismatch) →
    ∃ d : List Byte,
      d.length = s.hdr.flen.toNat ∧ 14 ≤ d.length ∧ (∀ k < d.length, t.fbuf.read k = d[k]?) ∧
        (t.evq = some .frameOk ↔ cks s.cfg s.ctx.alg (d.take (d.length - 2)) = s.trailer d)

/-- A block enabled, not holding a frame and offered nothing is ready for a port byte after at most eight idle steps: a
header fault delays the stream by a bounded replay and never stops it (rules R181, R274). The bound 8 is the longest chain
of nested replays; rule R181's 1 + 3 steps is that of one fault. -/
def Obligations.StreamResumesWithinEightSteps : Prop :=
  ∀ s : State, s.Inv → s.en = true → s.ph ≠ .complete → s.offer = none →
    ∃ n ≤ 8, ∃ t, idles n s = .next t ∧ t.inReady = true

/-- Partial-read resilience: the same bytes with any number of idle steps before each lead to the same state, but for EVQ
and the recorded outputs (rule R186). -/
def Obligations.PartialReadResilience : Prop :=
  ∀ (gs : List (Nat × Byte)) (s t : State), s.offer = none → TakesEach (gs.map Prod.snd) s →
    feed (gs.map Prod.snd) s = .next t →
    ∃ u, feedWithGaps gs s = .next u ∧ { u with evq := t.evq, out := t.out } = t

/-- A frame that passes, with any one byte from index 4 on changed, reaches the compare and fails it (rule R128). -/
def Obligations.CorruptedByteIsCaught : Prop :=
  ∀ (bs : List Byte) (s t : State) (j : Nat) (b : Byte) (h : j < bs.length),
    s.Inv → s.ph = .awaitingHeader → s.idx = 0 → s.offer = none →
    TakesEach bs s → feed bs s = .next t → t.ph = .complete → t.hdr.flen.toNat = bs.length →
    4 ≤ j → bs[j] ≠ b →
    ∃ u, feed (bs.set j b) s = .next u ∧ u.ph = .faulted ∧ u.evq = some .checksumMismatch ∧
      u.err.reason = .checksumMismatch ∧ u.cnt.cksumErr = s.cnt.cksumErr + 1 ∧ u.cnt.framesOk = s.cnt.framesOk
end

