-- ==== Sys2Proof/Laws/State.lean ====
section
/-! SUPPORT. What each update of the state leaves in each field: one lemma per field per update. -/

namespace Sys2Proof.Machine

/-! ## `State.memWrite` (rule R73) -/

@[simp] theorem memWrite_en (s : State) (b : Byte) : (s.memWrite b).en = s.en := rfl

@[simp] theorem memWrite_irqEn (s : State) (b : Byte) : (s.memWrite b).irqEn = s.irqEn := rfl

@[simp] theorem memWrite_events (s : State) (b : Byte) : (s.memWrite b).events = s.events := rfl

@[simp] theorem memWrite_ph (s : State) (b : Byte) : (s.memWrite b).ph = s.ph := rfl

@[simp] theorem memWrite_idx (s : State) (b : Byte) : (s.memWrite b).idx = s.idx := rfl

@[simp] theorem memWrite_locked (s : State) (b : Byte) : (s.memWrite b).locked = s.locked := rfl

@[simp] theorem memWrite_rq (s : State) (b : Byte) : (s.memWrite b).rq = s.rq := rfl

@[simp] theorem memWrite_hdr (s : State) (b : Byte) : (s.memWrite b).hdr = s.hdr := rfl

@[simp] theorem memWrite_ctx (s : State) (b : Byte) : (s.memWrite b).ctx = s.ctx := rfl

@[simp] theorem memWrite_acc (s : State) (b : Byte) : (s.memWrite b).acc = s.acc := rfl

@[simp] theorem memWrite_ckr0 (s : State) (b : Byte) : (s.memWrite b).ckr0 = s.ckr0 := rfl

@[simp] theorem memWrite_ckComp (s : State) (b : Byte) : (s.memWrite b).ckComp = s.ckComp := rfl

@[simp] theorem memWrite_ckRecv (s : State) (b : Byte) : (s.memWrite b).ckRecv = s.ckRecv := rfl

@[simp] theorem memWrite_err (s : State) (b : Byte) : (s.memWrite b).err = s.err := rfl

@[simp] theorem memWrite_cnt (s : State) (b : Byte) : (s.memWrite b).cnt = s.cnt := rfl

@[simp] theorem memWrite_engine (s : State) (b : Byte) : (s.memWrite b).engine = s.engine := rfl

@[simp] theorem memWrite_lut (s : State) (b : Byte) : (s.memWrite b).lut = s.lut := rfl

@[simp] theorem memWrite_vcfg (s : State) (b : Byte) : (s.memWrite b).vcfg = s.vcfg := rfl

@[simp] theorem memWrite_vtmap (s : State) (b : Byte) : (s.memWrite b).vtmap = s.vtmap := rfl

@[simp] theorem memWrite_fbuf (s : State) (b : Byte) : (s.memWrite b).fbuf = s.fbuf.write s.idx.toNat b := rfl

@[simp] theorem memWrite_evq (s : State) (b : Byte) : (s.memWrite b).evq = s.evq := rfl

@[simp] theorem memWrite_cfg (s : State) (b : Byte) : (s.memWrite b).cfg = s.cfg := rfl

@[simp] theorem memWrite_offer (s : State) (b : Byte) : (s.memWrite b).offer = s.offer := rfl

@[simp] theorem memWrite_script (s : State) (b : Byte) : (s.memWrite b).script = s.script := rfl

@[simp] theorem memWrite_out (s : State) (b : Byte) : (s.memWrite b).out = s.out := rfl

@[simp] theorem memWrite_draws (s : State) (b : Byte) : (s.memWrite b).draws = s.draws := rfl

/-! ## `State.accumulate` (rule R119) -/

@[simp] theorem accumulate_en (s : State) (b : Byte) : (s.accumulate b).en = s.en := rfl

@[simp] theorem accumulate_irqEn (s : State) (b : Byte) : (s.accumulate b).irqEn = s.irqEn := rfl

@[simp] theorem accumulate_events (s : State) (b : Byte) : (s.accumulate b).events = s.events := rfl

@[simp] theorem accumulate_ph (s : State) (b : Byte) : (s.accumulate b).ph = s.ph := rfl

@[simp] theorem accumulate_idx (s : State) (b : Byte) : (s.accumulate b).idx = s.idx := rfl

@[simp] theorem accumulate_locked (s : State) (b : Byte) : (s.accumulate b).locked = s.locked := rfl

@[simp] theorem accumulate_rq (s : State) (b : Byte) : (s.accumulate b).rq = s.rq := rfl

@[simp] theorem accumulate_hdr (s : State) (b : Byte) : (s.accumulate b).hdr = s.hdr := rfl

@[simp] theorem accumulate_ctx (s : State) (b : Byte) : (s.accumulate b).ctx = s.ctx := rfl

@[simp] theorem accumulate_acc (s : State) (b : Byte) : (s.accumulate b).acc = s.acc.next b s.idx := rfl

@[simp] theorem accumulate_ckr0 (s : State) (b : Byte) : (s.accumulate b).ckr0 = s.ckr0 := rfl

@[simp] theorem accumulate_ckComp (s : State) (b : Byte) : (s.accumulate b).ckComp = s.ckComp := rfl

@[simp] theorem accumulate_ckRecv (s : State) (b : Byte) : (s.accumulate b).ckRecv = s.ckRecv := rfl

@[simp] theorem accumulate_err (s : State) (b : Byte) : (s.accumulate b).err = s.err := rfl

@[simp] theorem accumulate_cnt (s : State) (b : Byte) : (s.accumulate b).cnt = s.cnt := rfl

@[simp] theorem accumulate_engine (s : State) (b : Byte) : (s.accumulate b).engine = s.engine := rfl

@[simp] theorem accumulate_lut (s : State) (b : Byte) : (s.accumulate b).lut = s.lut := rfl

@[simp] theorem accumulate_vcfg (s : State) (b : Byte) : (s.accumulate b).vcfg = s.vcfg := rfl

@[simp] theorem accumulate_vtmap (s : State) (b : Byte) : (s.accumulate b).vtmap = s.vtmap := rfl

@[simp] theorem accumulate_fbuf (s : State) (b : Byte) : (s.accumulate b).fbuf = s.fbuf := rfl

@[simp] theorem accumulate_evq (s : State) (b : Byte) : (s.accumulate b).evq = s.evq := rfl

@[simp] theorem accumulate_cfg (s : State) (b : Byte) : (s.accumulate b).cfg = s.cfg := rfl

@[simp] theorem accumulate_offer (s : State) (b : Byte) : (s.accumulate b).offer = s.offer := rfl

@[simp] theorem accumulate_script (s : State) (b : Byte) : (s.accumulate b).script = s.script := rfl

@[simp] theorem accumulate_out (s : State) (b : Byte) : (s.accumulate b).out = s.out := rfl

@[simp] theorem accumulate_draws (s : State) (b : Byte) : (s.accumulate b).draws = s.draws := rfl

/-! ## fault entry (rule R262) -/

@[simp] theorem raiseFault_st_en (s : State) (k : ErrorKind) (r : ErrReason) (b : Byte) (j : Half) (q : List Byte) :
    (raiseFault s k r b j q).st.en = s.en := rfl

@[simp] theorem raiseFault_st_irqEn (s : State) (k : ErrorKind) (r : ErrReason) (b : Byte) (j : Half) (q : List Byte) :
    (raiseFault s k r b j q).st.irqEn = s.irqEn := rfl

@[simp] theorem raiseFault_st_events (s : State) (k : ErrorKind) (r : ErrReason) (b : Byte) (j : Half) (q : List Byte) :
    (raiseFault s k r b j q).st.events = s.events := rfl

@[simp] theorem raiseFault_st_ph (s : State) (k : ErrorKind) (r : ErrReason) (b : Byte) (j : Half) (q : List Byte) :
    (raiseFault s k r b j q).st.ph = .faulted := rfl

@[simp] theorem raiseFault_st_idx (s : State) (k : ErrorKind) (r : ErrReason) (b : Byte) (j : Half) (q : List Byte) :
    (raiseFault s k r b j q).st.idx = s.idx := rfl

@[simp] theorem raiseFault_st_locked (s : State) (k : ErrorKind) (r : ErrReason) (b : Byte) (j : Half) (q : List Byte) :
    (raiseFault s k r b j q).st.locked = false := rfl

@[simp] theorem raiseFault_st_rq (s : State) (k : ErrorKind) (r : ErrReason) (b : Byte) (j : Half) (q : List Byte) :
    (raiseFault s k r b j q).st.rq = q ++ s.rq := rfl

@[simp] theorem raiseFault_st_hdr (s : State) (k : ErrorKind) (r : ErrReason) (b : Byte) (j : Half) (q : List Byte) :
    (raiseFault s k r b j q).st.hdr = s.hdr := rfl

@[simp] theorem raiseFault_st_ctx (s : State) (k : ErrorKind) (r : ErrReason) (b : Byte) (j : Half) (q : List Byte) :
    (raiseFault s k r b j q).st.ctx = s.ctx := rfl

@[simp] theorem raiseFault_st_acc (s : State) (k : ErrorKind) (r : ErrReason) (b : Byte) (j : Half) (q : List Byte) :
    (raiseFault s k r b j q).st.acc = s.acc := rfl

@[simp] theorem raiseFault_st_ckr0 (s : State) (k : ErrorKind) (r : ErrReason) (b : Byte) (j : Half) (q : List Byte) :
    (raiseFault s k r b j q).st.ckr0 = s.ckr0 := rfl

@[simp] theorem raiseFault_st_ckComp (s : State) (k : ErrorKind) (r : ErrReason) (b : Byte) (j : Half) (q : List Byte) :
    (raiseFault s k r b j q).st.ckComp = s.ckComp := rfl

@[simp] theorem raiseFault_st_ckRecv (s : State) (k : ErrorKind) (r : ErrReason) (b : Byte) (j : Half) (q : List Byte) :
    (raiseFault s k r b j q).st.ckRecv = s.ckRecv := rfl

@[simp] theorem raiseFault_st_err (s : State) (k : ErrorKind) (r : ErrReason) (b : Byte) (j : Half) (q : List Byte) :
    (raiseFault s k r b j q).st.err = { reason := r, byte := b, idx := j } := rfl

@[simp] theorem raiseFault_st_cnt (s : State) (k : ErrorKind) (r : ErrReason) (b : Byte) (j : Half) (q : List Byte) :
    (raiseFault s k r b j q).st.cnt = s.cnt.bump k.counter := rfl

@[simp] theorem raiseFault_st_engine (s : State) (k : ErrorKind) (r : ErrReason) (b : Byte) (j : Half) (q : List Byte) :
    (raiseFault s k r b j q).st.engine = s.engine := rfl

@[simp] theorem raiseFault_st_lut (s : State) (k : ErrorKind) (r : ErrReason) (b : Byte) (j : Half) (q : List Byte) :
    (raiseFault s k r b j q).st.lut = s.lut := rfl

@[simp] theorem raiseFault_st_vcfg (s : State) (k : ErrorKind) (r : ErrReason) (b : Byte) (j : Half) (q : List Byte) :
    (raiseFault s k r b j q).st.vcfg = s.vcfg := rfl

@[simp] theorem raiseFault_st_vtmap (s : State) (k : ErrorKind) (r : ErrReason) (b : Byte) (j : Half) (q : List Byte) :
    (raiseFault s k r b j q).st.vtmap = s.vtmap := rfl

@[simp] theorem raiseFault_st_fbuf (s : State) (k : ErrorKind) (r : ErrReason) (b : Byte) (j : Half) (q : List Byte) :
    (raiseFault s k r b j q).st.fbuf = s.fbuf := rfl

@[simp] theorem raiseFault_st_evq (s : State) (k : ErrorKind) (r : ErrReason) (b : Byte) (j : Half) (q : List Byte) :
    (raiseFault s k r b j q).st.evq = s.evq := rfl

@[simp] theorem raiseFault_st_cfg (s : State) (k : ErrorKind) (r : ErrReason) (b : Byte) (j : Half) (q : List Byte) :
    (raiseFault s k r b j q).st.cfg = s.cfg := rfl

@[simp] theorem raiseFault_st_offer (s : State) (k : ErrorKind) (r : ErrReason) (b : Byte) (j : Half) (q : List Byte) :
    (raiseFault s k r b j q).st.offer = s.offer := rfl

@[simp] theorem raiseFault_st_script (s : State) (k : ErrorKind) (r : ErrReason) (b : Byte) (j : Half) (q : List Byte) :
    (raiseFault s k r b j q).st.script = s.script := rfl

@[simp] theorem raiseFault_st_out (s : State) (k : ErrorKind) (r : ErrReason) (b : Byte) (j : Half) (q : List Byte) :
    (raiseFault s k r b j q).st.out = s.out := rfl

@[simp] theorem raiseFault_st_draws (s : State) (k : ErrorKind) (r : ErrReason) (b : Byte) (j : Half) (q : List Byte) :
    (raiseFault s k r b j q).st.draws = s.draws := rfl

/-! ## the Faulted recovery (rule R182) -/

@[simp] theorem faultRecover_en (s : State) : (faultRecover s).en = s.en := rfl

@[simp] theorem faultRecover_irqEn (s : State) : (faultRecover s).irqEn = s.irqEn := rfl

@[simp] theorem faultRecover_events (s : State) : (faultRecover s).events = s.events := rfl

@[simp] theorem faultRecover_ph (s : State) : (faultRecover s).ph = .awaitingHeader := rfl

@[simp] theorem faultRecover_idx (s : State) : (faultRecover s).idx = 0 := rfl

@[simp] theorem faultRecover_locked (s : State) : (faultRecover s).locked = s.locked := rfl

@[simp] theorem faultRecover_rq (s : State) : (faultRecover s).rq = s.rq := rfl

@[simp] theorem faultRecover_hdr (s : State) : (faultRecover s).hdr = s.hdr := rfl

@[simp] theorem faultRecover_ctx (s : State) : (faultRecover s).ctx = s.ctx := rfl

@[simp] theorem faultRecover_acc (s : State) : (faultRecover s).acc = s.acc := rfl

@[simp] theorem faultRecover_ckr0 (s : State) : (faultRecover s).ckr0 = s.ckr0 := rfl

@[simp] theorem faultRecover_ckComp (s : State) : (faultRecover s).ckComp = s.ckComp := rfl

@[simp] theorem faultRecover_ckRecv (s : State) : (faultRecover s).ckRecv = s.ckRecv := rfl

@[simp] theorem faultRecover_err (s : State) : (faultRecover s).err = s.err := rfl

@[simp] theorem faultRecover_cnt (s : State) : (faultRecover s).cnt = s.cnt := rfl

@[simp] theorem faultRecover_engine (s : State) : (faultRecover s).engine = s.engine := rfl

@[simp] theorem faultRecover_lut (s : State) : (faultRecover s).lut = s.lut := rfl

@[simp] theorem faultRecover_vcfg (s : State) : (faultRecover s).vcfg = s.vcfg := rfl

@[simp] theorem faultRecover_vtmap (s : State) : (faultRecover s).vtmap = s.vtmap := rfl

@[simp] theorem faultRecover_fbuf (s : State) : (faultRecover s).fbuf = s.fbuf := rfl

@[simp] theorem faultRecover_evq (s : State) : (faultRecover s).evq = s.evq := rfl

@[simp] theorem faultRecover_cfg (s : State) : (faultRecover s).cfg = s.cfg := rfl

@[simp] theorem faultRecover_offer (s : State) : (faultRecover s).offer = s.offer := rfl

@[simp] theorem faultRecover_script (s : State) : (faultRecover s).script = s.script := rfl

@[simp] theorem faultRecover_out (s : State) : (faultRecover s).out = s.out := rfl

@[simp] theorem faultRecover_draws (s : State) : (faultRecover s).draws = s.draws := rfl

/-! ## the event merge (rule R171) -/

@[simp] theorem finish_en (s : State) (ev : Option StreamEvent) (e : Bool) (o : Outputs) :
    (s.finish ev e o).en = s.en := rfl

@[simp] theorem finish_irqEn (s : State) (ev : Option StreamEvent) (e : Bool) (o : Outputs) :
    (s.finish ev e o).irqEn = s.irqEn := rfl

@[simp] theorem finish_events (s : State) (ev : Option StreamEvent) (e : Bool) (o : Outputs) :
    (s.finish ev e o).events = mergeEvents s.events ev e := rfl

@[simp] theorem finish_ph (s : State) (ev : Option StreamEvent) (e : Bool) (o : Outputs) :
    (s.finish ev e o).ph = s.ph := rfl

@[simp] theorem finish_idx (s : State) (ev : Option StreamEvent) (e : Bool) (o : Outputs) :
    (s.finish ev e o).idx = s.idx := rfl

@[simp] theorem finish_locked (s : State) (ev : Option StreamEvent) (e : Bool) (o : Outputs) :
    (s.finish ev e o).locked = s.locked := rfl

@[simp] theorem finish_rq (s : State) (ev : Option StreamEvent) (e : Bool) (o : Outputs) :
    (s.finish ev e o).rq = s.rq := rfl

@[simp] theorem finish_hdr (s : State) (ev : Option StreamEvent) (e : Bool) (o : Outputs) :
    (s.finish ev e o).hdr = s.hdr := rfl

@[simp] theorem finish_ctx (s : State) (ev : Option StreamEvent) (e : Bool) (o : Outputs) :
    (s.finish ev e o).ctx = s.ctx := rfl

@[simp] theorem finish_acc (s : State) (ev : Option StreamEvent) (e : Bool) (o : Outputs) :
    (s.finish ev e o).acc = s.acc := rfl

@[simp] theorem finish_ckr0 (s : State) (ev : Option StreamEvent) (e : Bool) (o : Outputs) :
    (s.finish ev e o).ckr0 = s.ckr0 := rfl

@[simp] theorem finish_ckComp (s : State) (ev : Option StreamEvent) (e : Bool) (o : Outputs) :
    (s.finish ev e o).ckComp = s.ckComp := rfl

@[simp] theorem finish_ckRecv (s : State) (ev : Option StreamEvent) (e : Bool) (o : Outputs) :
    (s.finish ev e o).ckRecv = s.ckRecv := rfl

@[simp] theorem finish_err (s : State) (ev : Option StreamEvent) (e : Bool) (o : Outputs) :
    (s.finish ev e o).err = s.err := rfl

@[simp] theorem finish_cnt (s : State) (ev : Option StreamEvent) (e : Bool) (o : Outputs) :
    (s.finish ev e o).cnt = s.cnt := rfl

@[simp] theorem finish_engine (s : State) (ev : Option StreamEvent) (e : Bool) (o : Outputs) :
    (s.finish ev e o).engine = s.engine := rfl

@[simp] theorem finish_lut (s : State) (ev : Option StreamEvent) (e : Bool) (o : Outputs) :
    (s.finish ev e o).lut = s.lut := rfl

@[simp] theorem finish_vcfg (s : State) (ev : Option StreamEvent) (e : Bool) (o : Outputs) :
    (s.finish ev e o).vcfg = s.vcfg := rfl

@[simp] theorem finish_vtmap (s : State) (ev : Option StreamEvent) (e : Bool) (o : Outputs) :
    (s.finish ev e o).vtmap = s.vtmap := rfl

@[simp] theorem finish_fbuf (s : State) (ev : Option StreamEvent) (e : Bool) (o : Outputs) :
    (s.finish ev e o).fbuf = s.fbuf := rfl

@[simp] theorem finish_evq (s : State) (ev : Option StreamEvent) (e : Bool) (o : Outputs) :
    (s.finish ev e o).evq = ev := rfl

@[simp] theorem finish_cfg (s : State) (ev : Option StreamEvent) (e : Bool) (o : Outputs) :
    (s.finish ev e o).cfg = s.cfg := rfl

@[simp] theorem finish_offer (s : State) (ev : Option StreamEvent) (e : Bool) (o : Outputs) :
    (s.finish ev e o).offer = s.offer := rfl

@[simp] theorem finish_script (s : State) (ev : Option StreamEvent) (e : Bool) (o : Outputs) :
    (s.finish ev e o).script = s.script := rfl

@[simp] theorem finish_out (s : State) (ev : Option StreamEvent) (e : Bool) (o : Outputs) :
    (s.finish ev e o).out = o := rfl

@[simp] theorem finish_draws (s : State) (ev : Option StreamEvent) (e : Bool) (o : Outputs) :
    (s.finish ev e o).draws = s.draws := rfl

/-! ## the start of a line's step (log 1) -/

@[simp] theorem startLine_en (s : State) (l : Line) (rest : List Line) : (s.startLine l rest).en = s.en := rfl

@[simp] theorem startLine_irqEn (s : State) (l : Line) (rest : List Line) : (s.startLine l rest).irqEn = s.irqEn := rfl

@[simp] theorem startLine_events (s : State) (l : Line) (rest : List Line) : (s.startLine l rest).events = s.events := rfl

@[simp] theorem startLine_ph (s : State) (l : Line) (rest : List Line) : (s.startLine l rest).ph = s.ph := rfl

@[simp] theorem startLine_idx (s : State) (l : Line) (rest : List Line) : (s.startLine l rest).idx = s.idx := rfl

@[simp] theorem startLine_locked (s : State) (l : Line) (rest : List Line) : (s.startLine l rest).locked = s.locked := rfl

@[simp] theorem startLine_rq (s : State) (l : Line) (rest : List Line) : (s.startLine l rest).rq = s.rq := rfl

@[simp] theorem startLine_hdr (s : State) (l : Line) (rest : List Line) : (s.startLine l rest).hdr = s.hdr := rfl

@[simp] theorem startLine_ctx (s : State) (l : Line) (rest : List Line) : (s.startLine l rest).ctx = s.ctx := rfl

@[simp] theorem startLine_acc (s : State) (l : Line) (rest : List Line) : (s.startLine l rest).acc = s.acc := rfl

@[simp] theorem startLine_ckr0 (s : State) (l : Line) (rest : List Line) : (s.startLine l rest).ckr0 = s.ckr0 := rfl

@[simp] theorem startLine_ckComp (s : State) (l : Line) (rest : List Line) : (s.startLine l rest).ckComp = s.ckComp := rfl

@[simp] theorem startLine_ckRecv (s : State) (l : Line) (rest : List Line) : (s.startLine l rest).ckRecv = s.ckRecv := rfl

@[simp] theorem startLine_err (s : State) (l : Line) (rest : List Line) : (s.startLine l rest).err = s.err := rfl

@[simp] theorem startLine_cnt (s : State) (l : Line) (rest : List Line) : (s.startLine l rest).cnt = s.cnt := rfl

@[simp] theorem startLine_engine (s : State) (l : Line) (rest : List Line) : (s.startLine l rest).engine = s.engine := rfl

@[simp] theorem startLine_lut (s : State) (l : Line) (rest : List Line) : (s.startLine l rest).lut = s.lut := rfl

@[simp] theorem startLine_vcfg (s : State) (l : Line) (rest : List Line) : (s.startLine l rest).vcfg = s.vcfg := rfl

@[simp] theorem startLine_vtmap (s : State) (l : Line) (rest : List Line) : (s.startLine l rest).vtmap = s.vtmap := rfl

@[simp] theorem startLine_fbuf (s : State) (l : Line) (rest : List Line) : (s.startLine l rest).fbuf = s.fbuf := rfl

@[simp] theorem startLine_evq (s : State) (l : Line) (rest : List Line) : (s.startLine l rest).evq = s.evq := rfl

@[simp] theorem startLine_cfg (s : State) (l : Line) (rest : List Line) : (s.startLine l rest).cfg = s.cfg := rfl

@[simp] theorem startLine_offer (s : State) (l : Line) (rest : List Line) : (s.startLine l rest).offer = l.byte := rfl

@[simp] theorem startLine_script (s : State) (l : Line) (rest : List Line) : (s.startLine l rest).script = rest := rfl

@[simp] theorem startLine_out (s : State) (l : Line) (rest : List Line) : (s.startLine l rest).out = s.out := rfl

@[simp] theorem startLine_draws (s : State) (l : Line) (rest : List Line) : (s.startLine l rest).draws = s.draws := rfl

@[simp] theorem raiseFault_ev (s : State) (k : ErrorKind) (r : ErrReason) (b : Byte) (j : Half) (q : List Byte) :
    (raiseFault s k r b j q).ev = some k.event := rfl

@[simp] theorem raiseFault_inc (s : State) (k : ErrorKind) (r : ErrReason) (b : Byte) (j : Half) (q : List Byte) :
    (raiseFault s k r b j q).inc = [k.counter] := rfl

@[simp] theorem quiet_st (s : State) : (StreamResult.quiet s).st = s := rfl

@[simp] theorem quiet_ev (s : State) : (StreamResult.quiet s).ev = none := rfl

@[simp] theorem quiet_inc (s : State) : (StreamResult.quiet s).inc = [] := rfl

end Sys2Proof.Machine
end

