-- ==== Sys2Proof/Laws/Ops.lean ====
section
/-! SUPPORT. What the shared operations do, said once: the frame buffer, a step's stream part, the clock edge, the register
map. -/

namespace Sys2Proof.Machine

/-! ## The frame buffer (rules R54, R73) -/

theorem Memory.read_write_same (m : Memory) (a : Nat) (b : Byte) : (m.write a b).read a = some b := by
  induction m with
  | nil => simp [Memory.write, Memory.read]
  | cons c m ih =>
    obtain ⟨k, v⟩ := c
    by_cases h1 : a < k
    · simp [Memory.write, Memory.read, h1]
    · by_cases h2 : a = k
      · simp [Memory.write, Memory.read, h2]
      · simp [Memory.write, Memory.read, h1, h2, ih]

theorem Memory.read_write_other (m : Memory) (a a' : Nat) (b : Byte) (h : a' ≠ a) :
    (m.write a b).read a' = m.read a' := by
  induction m with
  | nil => simp [Memory.write, Memory.read, h]
  | cons c m ih =>
    obtain ⟨k, v⟩ := c
    by_cases h1 : a < k
    · simp [Memory.write, Memory.read, h1, h]
    · by_cases h2 : a = k
      · subst h2
        simp [Memory.write, Memory.read, h]
      · simp [Memory.write, Memory.read, h1, h2, ih]

theorem Memory.risingAbove_write (m : Memory) (lo a : Nat) (b : Byte) (hlo : lo < a)
    (h : Memory.risingAbove lo m = true) : Memory.risingAbove lo (m.write a b) = true := by
  induction m generalizing lo with
  | nil => simp [Memory.write, Memory.risingAbove, hlo]
  | cons c m ih =>
    obtain ⟨k, v⟩ := c
    simp only [Memory.risingAbove, Bool.and_eq_true, decide_eq_true_eq] at h
    by_cases h1 : a < k
    · simp [Memory.write, Memory.risingAbove, h1, hlo, h.2]
    · by_cases h2 : a = k
      · subst h2
        simp [Memory.write, Memory.risingAbove, hlo, h.2]
      · have hk : k < a := by omega
        simp [Memory.write, Memory.risingAbove, h1, h2, h.1, ih k hk h.2]

/-- Every write keeps the canonical form. -/
theorem Memory.wf_write (m : Memory) (a : Nat) (b : Byte) (h : m.wf = true) : (m.write a b).wf = true := by
  cases m with
  | nil => rfl
  | cons c m =>
    obtain ⟨k, v⟩ := c
    simp only [Memory.wf] at h
    by_cases h1 : a < k
    · simp [Memory.write, Memory.wf, Memory.risingAbove, h1, h]
    · by_cases h2 : a = k
      · subst h2
        simp [Memory.write, Memory.wf, h]
      · have hk : k < a := by omega
        simpa [Memory.write, Memory.wf, h1, h2] using Memory.risingAbove_write m k a b hk h

/-- A write below a bound keeps every offset below it. -/
theorem Memory.below_write (m : Memory) (n a : Nat) (b : Byte) (ha : a < n) (h : m.below n = true) :
    (m.write a b).below n = true := by
  induction m with
  | nil => simp [Memory.write, Memory.below, ha]
  | cons c m ih =>
    obtain ⟨k, v⟩ := c
    simp only [Memory.below, List.all_cons, Bool.and_eq_true, decide_eq_true_eq] at h ih ⊢
    by_cases h1 : a < k
    · simp [Memory.write, h1, ha, h.1, h.2]
    · by_cases h2 : a = k
      · subst h2
        simp [Memory.write, ha, h.2]
      · simp only [Memory.write, h1, h2, if_false, List.all_cons, Bool.and_eq_true, decide_eq_true_eq]
        exact ⟨h.1, ih h.2⟩

/-- The memory of the reset state has the canonical form. -/
theorem reset_fbuf_wf : State.reset.fbuf.wf = true := rfl

/-! ## The stream part (rules R171, R173, R174) -/

theorem streamPart_faulted {s : State} (h : s.ph = .faulted) : streamPart s = .ok (.quiet (faultRecover s)) := by
  simp [streamPart, h]

theorem streamPart_none {s : State} (h : s.ph ≠ .faulted) (hn : s.nextByte = none) :
    streamPart s = .ok (.quiet s) := by
  simp [streamPart, h, hn]

theorem streamPart_byte {s s' : State} {b : Byte} (h : s.ph ≠ .faulted) (hn : s.nextByte = some (b, s')) :
    streamPart s = process s' b := by
  simp [streamPart, h, hn]

/-- Where the processed byte comes from: the replay queue in AwaitingHeader, or else the port. -/
theorem nextByte_cases {s s' : State} {b : Byte} (h : s.nextByte = some (b, s')) :
    (∃ q, s.rq = b :: q ∧ s.en = true ∧ s.ph = .awaitingHeader ∧ s' = { s with rq := q }) ∨
      (s.rq = [] ∧ s.inReady = true ∧ s.offer = some b ∧ s' = { s with offer := none }) := by
  unfold State.nextByte at h
  split at h
  next b' q hq =>
    split at h
    next hc =>
      simp only [Bool.and_eq_true, beq_iff_eq] at hc
      simp only [Option.some.injEq, Prod.mk.injEq] at h
      obtain ⟨rfl, rfl⟩ := h
      exact .inl ⟨q, hq, hc.1, hc.2, rfl⟩
    next => cases h
  next hq =>
    split at h
    next hr =>
      cases ho : s.offer with
      | none => simp [ho] at h
      | some b' =>
        simp only [ho, Option.map_some, Option.some.injEq, Prod.mk.injEq] at h
        obtain ⟨rfl, rfl⟩ := h
        exact .inr ⟨hq, hr, rfl, rfl⟩
    next => cases h

theorem nextByte_ready {s : State} {b : Byte} (h : s.inReady = true) :
    ({ s with offer := some b } : State).nextByte = some (b, { s with offer := none }) := by
  have hq : s.rq = [] := by
    simp only [State.inReady, Bool.and_eq_true] at h
    simpa using h.1.1.2
  have hr : ({ s with offer := some b } : State).inReady = true := h
  unfold State.nextByte
  split
  next b' q hq' => exact absurd (hq.symm.trans hq') (by simp)
  next => rw [if_pos hr]; rfl

theorem nextByte_not_ready {s : State} (h : s.inReady = false) (hr : s.rq = [] ∨ s.en = false ∨ s.ph ≠ .awaitingHeader) :
    s.nextByte = none := by
  unfold State.nextByte
  split
  next b q hq =>
    have : (s.en && s.ph == .awaitingHeader) = false := by
      rcases hr with hr | hr | hr
      · simp [hq] at hr
      · simp [hr]
      · simp [hr]
    simp [this]
  next => simp [h]

theorem process_accepted {s : State} {b : Byte} (ha : s.acceptsIntoFrame b = true) (hf : s.idx.toNat < s.cfg.fbufBytes) :
    process s b = .ok (frameByte s b) := by
  simp [process, ha, hf]

theorem process_discarded {s : State} {b : Byte} (ha : s.acceptsIntoFrame b = false) :
    process s b = .ok (huntDiscard s b) := by
  simp [process, ha]

/-- The stream part answers in every state that fits. -/
theorem streamPart_of_fits {s : State} (h : s.fits) : ∃ r, streamPart s = .ok r := by
  by_cases hf : s.ph = .faulted
  · exact ⟨_, streamPart_faulted hf⟩
  cases hn : s.nextByte with
  | none => exact ⟨_, streamPart_none hf hn⟩
  | some p =>
    obtain ⟨b, s'⟩ := p
    have hlt : s'.idx.toNat < s'.cfg.fbufBytes := by
      rcases nextByte_cases hn with ⟨q, -, -, hp, rfl⟩ | ⟨-, hr, -, rfl⟩
      · rcases h with h | h | h
        · rw [h] at hp; cases hp
        · exact absurd h hf
        · exact h
      · rcases h with h | h | h
        · simp [State.inReady, h] at hr
        · exact absurd h hf
        · exact h
    rw [streamPart_byte hf hn]
    cases ha : s'.acceptsIntoFrame b with
    | true => exact ⟨_, process_accepted ha hlt⟩
    | false => exact ⟨_, process_discarded ha⟩

theorem streamPart_of_quiet {s : State} (h : s.quiet) : streamPart s = .ok (.quiet s) := by
  obtain ⟨hf, hr, ho⟩ := h
  refine streamPart_none hf ?_
  rcases ho with ho | ho
  · unfold State.nextByte
    split
    next b q hq =>
      have : (s.en && s.ph == .awaitingHeader) = false := by
        rcases hr with hr | hr | hr
        · simp [hq] at hr
        · simp [hr]
        · simp [hr]
      simp [this]
    next => simp [ho]
  · exact nextByte_not_ready ho hr

/-! ## The clock edge (rule R171) -/

theorem clockEdge_of_stream {rd : Option Addr} {bus : BusPart} {s : State} {r : StreamResult}
    (h : streamPart s = .ok r) :
    clockEdge rd bus s =
      .next ((bus r.inc r.st).1.finish r.ev (bus r.inc r.st).2 (s.outputs rd)) := by
  simp [clockEdge, h]

/-- Everything a clock edge that answers can do. -/
theorem clockEdge_next {rd : Option Addr} {bus : BusPart} {s t : State} (h : clockEdge rd bus s = .next t) :
    ∃ r, streamPart s = .ok r ∧ t = (bus r.inc r.st).1.finish r.ev (bus r.inc r.st).2 (s.outputs rd) := by
  unfold clockEdge at h
  split at h
  next => cases h
  next r hr => exact ⟨r, hr, by simpa using h.symm⟩

/-- No clock edge is refused. -/
theorem clockEdge_not_refused (rd : Option Addr) (bus : BusPart) (s : State) (e : Refusal) :
    clockEdge rd bus s ≠ .refused e := by
  unfold clockEdge
  split <;> simp

theorem idleEdge_of_stream {s : State} {r : StreamResult} (h : streamPart s = .ok r) :
    idleEdge s = .next (r.st.finish r.ev false (s.outputs none)) := clockEdge_of_stream h

/-- The bus part and the read an operation brings to its clock edge. -/
def busOf : Instr → Option Addr × BusPart
  | .streamByte _ => (none, noBus)
  | .csrRead a => (some a, readPart)
  | .csrWrite a d => (none, writePart a d)
  | .nop => (none, nopPart)
  | .abort => (none, abortPart)
  | .release => (none, releasePart)
  | .clrCounters => (none, clrCountersPart)
  | .ckInit alg => (none, ckInitPart alg)
  | .ckByte b => (none, ckBytePart b)

/-- Every operation is one clock edge. -/
theorem exec_eq_clockEdge (i : Instr) (s : State) : exec i s = clockEdge (busOf i).1 (busOf i).2 (s.presenting i) := by
  cases i <;> rfl

/-! ## The register map (rules R23, R72) -/

/-- Two addresses of one word name the same word. -/
theorem hostWord_congr {a a' : Addr} (h : a &&& 0x1FFFC = a' &&& 0x1FFFC) : hostWord a = hostWord a' := by
  unfold hostWord
  simp only [h]

theorem hostWord_cmd {a : Addr} (h : addressesCmd a = true) : hostWord a = .cmd := by
  have h' : a &&& 0x1FFFC = (0x14 : Addr) &&& 0x1FFFC := by
    simpa [addressesCmd] using h
  rw [hostWord_congr h']
  rfl

end Sys2Proof.Machine
end

