-- ==== Sys2Proof/Laws/PerInstr.lean ====
section
/-! SUPPORT. Statements made for each operation: the number of bytes its format has (rules R90 to R93). -/

namespace Sys2Proof

theorem leBytes_length (n w : Nat) : (leBytes n w).length = n := by
  induction n generalizing w with
  | zero => rfl
  | succ n ih => simp [leBytes, ih]

/-- The whole bytes of an operation's format: 8, 18, 50 or 32 bits. -/
def formatBytes : Instr → Nat
  | .streamByte _ => 1
  | .csrRead _ => 3
  | .csrWrite _ _ => 7
  | .nop => 4
  | .abort => 4
  | .release => 4
  | .clrCounters => 4
  | .ckInit _ => 4
  | .ckByte _ => 4

/-- An encoded operation has its format's length. -/
def Laws.EncodedLength.Statement (i : Instr) : Prop := (encode i).length = formatBytes i

theorem Laws.EncodedLength.streamByte (b : Byte) : Laws.EncodedLength.Statement (.streamByte b) := leBytes_length _ _
theorem Laws.EncodedLength.csrRead (a : Addr) : Laws.EncodedLength.Statement (.csrRead a) := leBytes_length _ _
theorem Laws.EncodedLength.csrWrite (a : Addr) (d : Word) : Laws.EncodedLength.Statement (.csrWrite a d) :=
  leBytes_length _ _
theorem Laws.EncodedLength.nop : Laws.EncodedLength.Statement .nop := leBytes_length _ _
theorem Laws.EncodedLength.abort : Laws.EncodedLength.Statement .abort := leBytes_length _ _
theorem Laws.EncodedLength.release : Laws.EncodedLength.Statement .release := leBytes_length _ _
theorem Laws.EncodedLength.clrCounters : Laws.EncodedLength.Statement .clrCounters := leBytes_length _ _
theorem Laws.EncodedLength.ckInit (alg : BitVec 2) : Laws.EncodedLength.Statement (.ckInit alg) := leBytes_length _ _
theorem Laws.EncodedLength.ckByte (b : Byte) : Laws.EncodedLength.Statement (.ckByte b) := leBytes_length _ _

end Sys2Proof
end

