-- ==== Sys2Proof/Laws/Stream.lean ====
section
/-! SUPPORT. What the stream part and the bus part of a step leave alone, and the cases of the stream part, said once (rules
R171, R174, R221). -/

namespace Sys2Proof.Machine

/-- What no stream part changes: the host's registers, the dispatch table, the engine, EVENTS (set only in the merge), the
parameters and the environment's script. -/
structure State.SameSettings (s t : State) : Prop where
  en : t.en = s.en
  irqEn : t.irqEn = s.irqEn
  events : t.events = s.events
  engine : t.engine = s.engine
  lut : t.lut = s.lut
  vcfg : t.vcfg = s.vcfg
  vtmap : t.vtmap = s.vtmap
  evq : t.evq = s.evq
  cfg : t.cfg = s.cfg
  script : t.script = s.script
  out : t.out = s.out
  draws : t.draws = s.draws

theorem State.SameSettings.refl (s : State) : s.SameSettings s := ⟨rfl, rfl, rfl, rfl, rfl, rfl, rfl, rfl, rfl, rfl, rfl, rfl⟩

theorem State.SameSettings.trans {s t u : State} (h : s.SameSettings t) (h' : t.SameSettings u) : s.SameSettings u :=
  ⟨h'.en.trans h.en, h'.irqEn.trans h.irqEn, h'.events.trans h.events, h'.engine.trans h.engine, h'.lut.trans h.lut,
    h'.vcfg.trans h.vcfg, h'.vtmap.trans h.vtmap, h'.evq.trans h.evq, h'.cfg.trans h.cfg, h'.script.trans h.script,
    h'.out.trans h.out, h'.draws.trans h.draws⟩

/-! ## The functions of a byte, by index -/

theorem syncAccept_settings (s : State) (b : Byte) : s.SameSettings (syncAccept s b).st :=
  ⟨rfl, rfl, rfl, rfl, rfl, rfl, rfl, rfl, rfl, rfl, rfl, rfl⟩

theorem byte1_settings (s : State) (b : Byte) : s.SameSettings (byte1 s b).st := by
  unfold byte1
  dsimp only
  split
  · exact ⟨rfl, rfl, rfl, rfl, rfl, rfl, rfl, rfl, rfl, rfl, rfl, rfl⟩
  · split <;> exact ⟨rfl, rfl, rfl, rfl, rfl, rfl, rfl, rfl, rfl, rfl, rfl, rfl⟩

theorem byte2_settings (s : State) (b : Byte) : s.SameSettings (byte2 s b).st :=
  ⟨rfl, rfl, rfl, rfl, rfl, rfl, rfl, rfl, rfl, rfl, rfl, rfl⟩

theorem byte3_settings (s : State) (b : Byte) : s.SameSettings (byte3 s b).st := by
  unfold byte3
  dsimp only
  split
  · exact ⟨rfl, rfl, rfl, rfl, rfl, rfl, rfl, rfl, rfl, rfl, rfl, rfl⟩
  · split <;> exact ⟨rfl, rfl, rfl, rfl, rfl, rfl, rfl, rfl, rfl, rfl, rfl, rfl⟩

theorem bodyByte_settings (s : State) (b : Byte) : s.SameSettings (bodyByte s b).st :=
  ⟨rfl, rfl, rfl, rfl, rfl, rfl, rfl, rfl, rfl, rfl, rfl, rfl⟩

theorem lastByte_settings (s : State) (b : Byte) : s.SameSettings (lastByte s b).st := by
  unfold lastByte
  dsimp only
  split <;> exact ⟨rfl, rfl, rfl, rfl, rfl, rfl, rfl, rfl, rfl, rfl, rfl, rfl⟩

theorem huntDiscard_settings (s : State) (b : Byte) : s.SameSettings (huntDiscard s b).st := by
  unfold huntDiscard
  dsimp only
  split <;> exact ⟨rfl, rfl, rfl, rfl, rfl, rfl, rfl, rfl, rfl, rfl, rfl, rfl⟩

theorem frameByte_settings (s : State) (b : Byte) : s.SameSettings (frameByte s b).st := by
  unfold frameByte
  split
  · exact syncAccept_settings s b
  split
  · exact byte1_settings s b
  split
  · exact byte2_settings s b
  split
  · exact byte3_settings s b
  split
  · exact bodyByte_settings s b
  · exact lastByte_settings s b

/-- Every byte accepted into the frame is written to FBUF at its frame index, whatever else it does (rule R73). -/
theorem frameByte_fbuf (s : State) (b : Byte) : (frameByte s b).st.fbuf = s.fbuf.write s.idx.toNat b := by
  unfold frameByte
  split
  next h => simp [syncAccept, State.memWrite, h]
  split
  · unfold byte1
    dsimp only
    split
    · rfl
    · split <;> rfl
  split
  · rfl
  split
  · unfold byte3
    dsimp only
    split
    · rfl
    · split <;> rfl
  split
  · rfl
  · unfold lastByte
    dsimp only
    split <;> rfl

theorem huntDiscard_fbuf (s : State) (b : Byte) : (huntDiscard s b).st.fbuf = s.fbuf := by
  unfold huntDiscard
  dsimp only
  split <;> rfl

/-- No byte's processing touches the port. -/
theorem frameByte_offer (s : State) (b : Byte) : (frameByte s b).st.offer = s.offer := by
  unfold frameByte
  split
  · rfl
  split
  · unfold byte1
    dsimp only
    split
    · rfl
    · split <;> rfl
  split
  · rfl
  split
  · unfold byte3
    dsimp only
    split
    · rfl
    · split <;> rfl
  split
  · rfl
  · unfold lastByte
    dsimp only
    split <;> rfl

theorem huntDiscard_offer (s : State) (b : Byte) : (huntDiscard s b).st.offer = s.offer := by
  unfold huntDiscard
  dsimp only
  split <;> rfl

/-! ## The stream part -/

theorem process_cases {s : State} {b : Byte} {r : StreamResult} (h : process s b = .ok r) :
    (s.acceptsIntoFrame b = false ∧ r = huntDiscard s b) ∨
      (s.acceptsIntoFrame b = true ∧ s.idx.toNat < s.cfg.fbufBytes ∧ r = frameByte s b) := by
  unfold process at h
  split at h
  next ha =>
    split at h
    next hf => exact .inr ⟨ha, hf, by simpa using h.symm⟩
    next => cases h
  next ha => exact .inl ⟨by simpa using ha, by simpa using h.symm⟩

/-- Everything the stream part of a step can be: the recovery, nothing, a discarded byte, or a byte of the frame. -/
theorem streamPart_cases {s : State} {r : StreamResult} (h : streamPart s = .ok r) :
    (s.ph = .faulted ∧ r = .quiet (faultRecover s)) ∨
      (s.ph ≠ .faulted ∧ s.nextByte = none ∧ r = .quiet s) ∨
      (∃ b s', s.ph ≠ .faulted ∧ s.nextByte = some (b, s') ∧ s'.acceptsIntoFrame b = false ∧ r = huntDiscard s' b) ∨
      (∃ b s', s.ph ≠ .faulted ∧ s.nextByte = some (b, s') ∧ s'.acceptsIntoFrame b = true ∧
        s'.idx.toNat < s'.cfg.fbufBytes ∧ r = frameByte s' b) := by
  by_cases hf : s.ph = .faulted
  · rw [streamPart_faulted hf] at h
    exact .inl ⟨hf, by simpa using h.symm⟩
  cases hn : s.nextByte with
  | none =>
    rw [streamPart_none hf hn] at h
    exact .inr (.inl ⟨hf, rfl, by simpa using h.symm⟩)
  | some p =>
    obtain ⟨b, s'⟩ := p
    rw [streamPart_byte hf hn] at h
    rcases process_cases h with ⟨ha, hr⟩ | ⟨ha, hlt, hr⟩
    · exact .inr (.inr (.inl ⟨b, s', hf, rfl, ha, hr⟩))
    · exact .inr (.inr (.inr ⟨b, s', hf, rfl, ha, hlt, hr⟩))

/-- Taking the byte from its queue or port changes nothing else. -/
theorem nextByte_settings {s s' : State} {b : Byte} (h : s.nextByte = some (b, s')) : s.SameSettings s' := by
  rcases nextByte_cases h with ⟨q, -, -, -, rfl⟩ | ⟨-, -, -, rfl⟩ <;>
    exact ⟨rfl, rfl, rfl, rfl, rfl, rfl, rfl, rfl, rfl, rfl, rfl, rfl⟩

/-- No stream part changes the settings. -/
theorem streamPart_settings {s : State} {r : StreamResult} (h : streamPart s = .ok r) : s.SameSettings r.st := by
  rcases streamPart_cases h with ⟨-, rfl⟩ | ⟨-, -, rfl⟩ | ⟨b, s', -, hn, -, rfl⟩ | ⟨b, s', -, hn, -, -, rfl⟩
  · exact ⟨rfl, rfl, rfl, rfl, rfl, rfl, rfl, rfl, rfl, rfl, rfl, rfl⟩
  · exact State.SameSettings.refl s
  · exact (nextByte_settings hn).trans (huntDiscard_settings s' b)
  · exact (nextByte_settings hn).trans (frameByte_settings s' b)

/-! ## The bus part -/

/-- What no bus part changes: the frame's bytes and records, and what the step's end writes. -/
structure State.SameFrame (s t : State) : Prop where
  hdr : t.hdr = s.hdr
  ctx : t.ctx = s.ctx
  acc : t.acc = s.acc
  ckr0 : t.ckr0 = s.ckr0
  ckComp : t.ckComp = s.ckComp
  ckRecv : t.ckRecv = s.ckRecv
  err : t.err = s.err
  fbuf : t.fbuf = s.fbuf
  evq : t.evq = s.evq
  cfg : t.cfg = s.cfg
  offer : t.offer = s.offer
  script : t.script = s.script
  out : t.out = s.out

theorem State.SameFrame.refl (s : State) : s.SameFrame s :=
  ⟨rfl, rfl, rfl, rfl, rfl, rfl, rfl, rfl, rfl, rfl, rfl, rfl, rfl⟩

theorem refuseWrite_eq (s : State) : refuseWrite s = (s, true) := rfl

theorem releasePart_frame (inc : List Counter) (s : State) : s.SameFrame (releasePart inc s).1 := by
  unfold releasePart
  split <;> exact ⟨rfl, rfl, rfl, rfl, rfl, rfl, rfl, rfl, rfl, rfl, rfl, rfl, rfl⟩

theorem ckInitPart_frame (c : BitVec 2) (inc : List Counter) (s : State) : s.SameFrame (ckInitPart c inc s).1 := by
  unfold ckInitPart
  split <;> exact ⟨rfl, rfl, rfl, rfl, rfl, rfl, rfl, rfl, rfl, rfl, rfl, rfl, rfl⟩

theorem commandPart_frame (d : Word) (inc : List Counter) (s : State) : s.SameFrame (commandPart d inc s).1 := by
  unfold commandPart
  dsimp only
  repeat' split
  all_goals
    first
    | exact releasePart_frame inc s
    | exact ckInitPart_frame _ inc s
    | exact ⟨rfl, rfl, rfl, rfl, rfl, rfl, rfl, rfl, rfl, rfl, rfl, rfl, rfl⟩

theorem lutWrite_frame (s : State) (i : Fin 8) (d : Word) : s.SameFrame (lutWrite s i d).1 := by
  unfold lutWrite
  split <;> exact ⟨rfl, rfl, rfl, rfl, rfl, rfl, rfl, rfl, rfl, rfl, rfl, rfl, rfl⟩

theorem vcfgWrite_frame (s : State) (v : Fin 5) (d : Word) : s.SameFrame (vcfgWrite s v d).1 := by
  unfold vcfgWrite
  split <;> exact ⟨rfl, rfl, rfl, rfl, rfl, rfl, rfl, rfl, rfl, rfl, rfl, rfl, rfl⟩

theorem vtmapWrite_frame (s : State) (v : Fin 5) (d : Word) : s.SameFrame (vtmapWrite s v d).1 := by
  unfold vtmapWrite
  split <;> exact ⟨rfl, rfl, rfl, rfl, rfl, rfl, rfl, rfl, rfl, rfl, rfl, rfl, rfl⟩

theorem writePart_frame (a : Addr) (d : Word) (inc : List Counter) (s : State) :
    s.SameFrame (writePart a d inc s).1 := by
  unfold writePart
  split
  all_goals
    first
    | exact commandPart_frame d inc s
    | exact lutWrite_frame s _ d
    | exact vcfgWrite_frame s _ d
    | exact vtmapWrite_frame s _ d
    | exact ⟨rfl, rfl, rfl, rfl, rfl, rfl, rfl, rfl, rfl, rfl, rfl, rfl, rfl⟩

/-- No operation's bus part changes the frame's bytes and records. -/
theorem busOf_frame (i : Instr) (inc : List Counter) (s : State) : s.SameFrame ((busOf i).2 inc s).1 := by
  cases i with
  | csrWrite a d => exact writePart_frame a d inc s
  | release => exact releasePart_frame inc s
  | ckInit c => exact ckInitPart_frame c inc s
  | _ => exact ⟨rfl, rfl, rfl, rfl, rfl, rfl, rfl, rfl, rfl, rfl, rfl, rfl, rfl⟩

/-- Everything an operation that answers can do: its stream part, then its bus part, then the merge. -/
theorem exec_next {i : Instr} {s t : State} (h : exec i s = .next t) :
    ∃ r, streamPart (s.presenting i) = .ok r ∧
      t = ((busOf i).2 r.inc r.st).1.finish r.ev ((busOf i).2 r.inc r.st).2 ((s.presenting i).outputs (busOf i).1) := by
  rw [exec_eq_clockEdge] at h
  exact clockEdge_next h

/-- An operation whose stream part answers completes. -/
theorem exec_of_stream {i : Instr} {s : State} {r : StreamResult} (h : streamPart (s.presenting i) = .ok r) :
    exec i s =
      .next
        (((busOf i).2 r.inc r.st).1.finish r.ev ((busOf i).2 r.inc r.st).2
          ((s.presenting i).outputs (busOf i).1)) := by
  rw [exec_eq_clockEdge]
  exact clockEdge_of_stream h

end Sys2Proof.Machine
end

