-- ==== Sys2Proof/Tests/Slice0.lean ====
section
/-! SUPPORT. Tests: the well-formedness check, decoding by words written out from rules R91 to R94, one-step tests with the
expected values of spec/95_test_vectors.md, and a witness for the hypotheses of every statement that has some. -/

namespace Sys2Proof.Machine.Tests

/-! ## Helpers -/

/-- The step has a next state, and it passes the test. -/
def after (o : StepOutcome) (p : State → Bool) : Bool :=
  match o with
  | .next t => p t
  | .fault _ => false
  | .refused _ => false

theorem next_of_after {o : StepOutcome} {p : State → Bool} (h : after o p = true) : ∃ t, o = .next t ∧ p t = true := by
  cases o with
  | next t => exact ⟨t, rfl, h⟩
  | fault _ => cases h
  | refused _ => cases h

/-- `TakesEach`, as a test. -/
def takesAll : List Byte → State → Bool
  | [], _ => true
  | b :: bs, s => s.inReady && after (exec (.streamByte b) s) (takesAll bs)

theorem takesEach_of_takesAll (bs : List Byte) (s : State) (h : takesAll bs s = true) : TakesEach bs s := by
  induction bs generalizing s with
  | nil => trivial
  | cons b bs ih =>
    simp only [takesAll, Bool.and_eq_true] at h
    obtain ⟨t, ht, hp⟩ := next_of_after h.2
    exact ⟨h.1, t, ht, ih t hp⟩

/-- The configuration TC of 95_test_vectors.md section 2, before its line 9. -/
def tcOff : State :=
  { State.reset with
    lut :=
      #v[⟨true, 0, 0xAA, 0x003F⟩, ⟨true, 2, 0x55, 0x0001⟩, ⟨true, 4, 0xA5, 0x0010⟩, LutEntry.reset, LutEntry.reset,
        LutEntry.reset, LutEntry.reset, LutEntry.reset]
    vcfg :=
      #v[⟨.ccitt, 2, 2, false, 18, 0x0006⟩, VariantCfg.reset, ⟨.xorSum, 0, 0, false, 0, 0xFFFF⟩, VariantCfg.reset,
        ⟨.crc16, 1, 0, true, 0, 0x0040⟩]
    vtmap := #v[0x00000309, 0, 0x00000001, 0, 0x00000100] }

/-- TC. -/
def tc : State := { tcOff with en := true }

/-- The frame of vector V3.5e: variant 2, Data, L = 14. -/
def shortFrame : List Byte := [0x55, 0x01, 0x00, 0x0E, 0x00, 0x01, 0x00, 0x00, 0x00, 0x00, 0x00, 0x00, 0x55, 0x0E]

/-- The header of V3.5e after byte 3, its descriptor latched, in TC. -/
def atIndex4 : State :=
  { tc with
    idx := 4
    hdr := { Header.zero with sync := 0x55, tv := 0x01, flen := 0x000E }
    ctx := { Context.zero with var := 2, ftype := .data, alg := .xorSum }
    fbuf := [(0, 0x55), (1, 0x01), (2, 0x00), (3, 0x0E)] }

/-- V3.5e up to its last byte. -/
def atLastByte : State :=
  { atIndex4 with
    ph := .awaitingChecksum
    idx := 13
    hdr := { atIndex4.hdr with idc := 1 }
    acc :=
      { cc := cks Config.default .ccitt (shortFrame.take 12)
        c16 := cks Config.default .crc16 (shortFrame.take 12)
        x := 0x550E }
    ckr0 := 0x55
    fbuf := (shortFrame.take 13).zipIdx.map fun p => (p.2, p.1) }

/-- V3.5e held. -/
def held : State :=
  { atLastByte with
    ph := .complete
    idx := 14
    locked := true
    ckComp := 0x550E
    ckRecv := 0x550E
    fbuf := shortFrame.zipIdx.map fun p => (p.2, p.1) }

/-- The Faulted step of vector V4.1, with the replay queued. -/
def faulted : State :=
  { tc with ph := .faulted, idx := 3, rq := [0x01, 0x00, 0x05], err := ⟨.lengthTooSmall, 0x05, 3⟩ }

/-- The step after it. -/
def replaying : State := { faulted with ph := .awaitingHeader, idx := 0 }

/-- Hunting after an accepted frame, in TC. -/
def lockedHunting : State := { tc with locked := true }

theorem held_inv : held.Inv :=
  ⟨by decide, by decide, by decide, by decide, by unfold State.ReplayOk; decide,
    by unfold State.PositionOk Phase.receiving State.LengthOk; decide⟩

theorem atLastByte_inv : atLastByte.Inv :=
  ⟨by decide, by decide, by decide, by decide, by unfold State.ReplayOk; decide,
    by unfold State.PositionOk Phase.receiving State.LengthOk; decide⟩

theorem faulted_inv : faulted.Inv :=
  ⟨by decide, by decide, by decide, by decide, by unfold State.ReplayOk; decide,
    by unfold State.PositionOk Phase.receiving State.LengthOk; decide⟩

theorem tc_inv : tc.Inv :=
  ⟨by decide, by decide, by decide, by decide, by unfold State.ReplayOk; decide,
    by unfold State.PositionOk Phase.receiving State.LengthOk; decide⟩

theorem atLastByte_frame : atLastByte.FrameInv := fun _ =>
  ⟨shortFrame.take 13,
    ⟨by decide, by decide, by unfold State.HeaderHolds; decide, by unfold State.AccumulatorsHold; decide +kernel, by decide,
      by decide⟩⟩

/-! ## Well-formedness -/

theorem test_command_as_bus_write_is_refused : (Instr.csrWrite 0x00014 0x00000000).wellFormed = false := by decide
theorem test_command_with_operand_is_refused : (Instr.csrWrite 0x00017 0x00004111).wellFormed = false := by decide
theorem test_reserved_word_is_a_bus_write : (Instr.csrWrite 0x00014 0x00000004).wellFormed = true := by decide

/-! ## Decoding -/

theorem test_decode_stream_byte : decode [0b01010101] = .ok (.streamByte 0x55) := by decide
theorem test_decode_csr_read : decode [0b00001000, 0b00000000, 0b00000001] = .ok (.csrRead 0x10008) := by decide
theorem test_decode_csr_write :
    decode [0b00101000, 0b00010010, 0b00000110, 0b00000000, 0b00000000, 0b00000010, 0b00000010] =
      .ok (.csrWrite 0x00200 0x00061228) := by decide
theorem test_decode_nop : decode [0b00000000, 0, 0, 0] = .ok .nop := by decide
theorem test_decode_abort : decode [0b00000001, 0, 0, 0] = .ok .abort := by decide
theorem test_decode_release : decode [0b00000010, 0, 0, 0] = .ok .release := by decide
theorem test_decode_clr_counters : decode [0b00000011, 0, 0, 0] = .ok .clrCounters := by decide
theorem test_decode_ck_init : decode [0b00010000, 0b00000001, 0, 0] = .ok (.ckInit 1) := by decide
theorem test_decode_ck_byte : decode [0b00010001, 0b01000001, 0, 0] = .ok (.ckByte 0x41) := by decide
theorem test_decode_command_over_the_bus :
    decode [0b00000010, 0, 0, 0, 0b00010110, 0, 0b00000010] = .ok .release := by decide
theorem test_decode_reserved_command : decode [0x04, 0, 0, 0] = .ok (.csrWrite 0x00014 0x00000004) := by decide
theorem test_decode_refuses :
    (decode [] = .error (.noFormatOfThisLength 0) ∧ decode [1, 2] = .error (.noFormatOfThisLength 2)) ∧
      decode [0, 0, 0b00000010] = .error .wrongBusKind ∧ decode [0, 0, 0b00000100] = .error .paddingNotZero ∧
      decode [0, 0, 0, 0, 0, 0, 0b00000001] = .error .wrongBusKind ∧
      decode [0, 0, 0, 0, 0, 0, 0b00000100] = .error .paddingNotZero := by decide
/-- No word matches two rows of the CMD opcode map. -/
theorem test_command_rows_disjoint :
    cmdRows.Pairwise fun r q => r.pattern &&& (r.mask &&& q.mask) ≠ q.pattern &&& (r.mask &&& q.mask) := by decide

/-! ## A table word as the first operation after reset -/

theorem test_fetch_stream_byte : after (step (State.reset.withFetchWord 8 0x00)) (fun t => t.offer = some 0) = true := by
  decide
theorem test_fetch_csr_read :
    after (step (State.reset.withFetchWord 24 0x00008)) (fun t => t.out.rdata = some 0x00010000) = true := by decide
theorem test_fetch_csr_write :
    after (step (State.reset.withFetchWord 56 0x2000400000001)) (fun t => t.en) = true := by decide
theorem test_fetch_commands :
    ([0x0, 0x1, 0x2, 0x3, 0x010, 0x4111].map fun w =>
      after (step (State.reset.withFetchWord 32 w)) (fun t => t.events == (if w = 2 then 0x20 else 0) : State → Bool)) =
      [true, true, true, true, true, true] := by decide

/-! ## One step of each operation -/

-- V3.1 step 0, and V3.5e's last byte
theorem test_sync_byte : after (exec (.streamByte 0xAA) tc) (fun t => t.idx = 1 ∧ t.rdata 0x008 = 0x00010000) = true := by
  decide
theorem test_last_byte :
    after (exec (.streamByte 0x0E) atLastByte)
      (fun t => t.rdata 0x008 = 0x00000955 ∧ t.rdata 0x00C = 0x01 ∧ t.rdata 0x040 = 1) = true := by decide
-- V8.1, and V3.2's kind of window word, little-endian lanes
theorem test_read_status : after (exec (.csrRead 0x00008) State.reset) (fun t => t.out.rdata = some 0x00010000) = true := by
  decide
theorem test_read_window : after (exec (.csrRead 0x10001) held) (fun t => t.out.rdata = some 0x0E000155) = true := by decide
-- V6.1 and V6.3
theorem test_write_locked :
    after (exec (.csrWrite 0x00100 0) tc) (fun t => t.rdata 0x100 = 0x003FAA01 ∧ t.events = 0x20) = true := by decide
theorem test_write_warl :
    after (exec (.csrWrite 0x00200 0x00011233) tcOff) (fun t => t.rdata 0x200 = 0x00011220 ∧ t.events = 0x20) = true := by
  decide
-- V6.6
theorem test_nop : after (exec .nop tc) (fun t => t = { tc with out := t.out }) = true := by decide
-- V4.1 with ABORT in the Faulted step, and V6.13
theorem test_abort : after (exec .abort faulted) (fun t => t.rdata 0x008 = 0x00010000 ∧ t.rq = []) = true := by decide
theorem test_abort_with_last_byte :
    after (exec .abort { atLastByte with offer := some 0x0E })
      (fun t => t.rdata 0x008 = 0x00010050 ∧ t.cnt.framesOk = 1) = true := by decide
-- V6.7 and V6.12
theorem test_release_refused : after (exec .release tc) (fun t => t.events = 0x20 ∧ t.ph = .awaitingHeader) = true := by decide
theorem test_release_with_last_byte :
    after (exec .release { atLastByte with offer := some 0x0E })
      (fun t => t.rdata 0x008 = 0x00010150 ∧ t.events = 0x01) = true := by decide
-- V6.9
theorem test_clr_counters_with_last_byte :
    after (exec .clrCounters { atLastByte with offer := some 0x0E, cnt := ⟨7, 7, 7, 7, 7⟩ })
      (fun t => t.cnt = ⟨1, 0, 0, 0, 0⟩) = true := by decide
-- V2.1 and V2.9
theorem test_ck_init : after (exec (.ckInit 1) State.reset) (fun t => t.rdata 0x060 = 0x0001FFFF) = true := by decide
theorem test_ck_init_reserved :
    after (exec (.ckInit 3) State.reset) (fun t => t.rdata 0x060 = 0x0000FFFF ∧ t.events = 0x20) = true := by decide
-- V2.2, and V1.7's odd position
theorem test_ck_byte : after (exec (.ckByte 0x41) State.reset) (fun t => t.rdata 0x060 = 0x0000B915 ∧ t.rdata 0x064 = 1) = true := by
  decide
theorem test_ck_byte_odd_position :
    after (exec (.ckByte 0x02) { State.reset with engine := ⟨.xorSum, 0x0100, 1⟩ }) (fun t => t.engine = ⟨.xorSum, 0x0102, 2⟩) =
      true := by decide

/-! ## Witnesses: the hypotheses of each statement can be met -/

theorem witness_DecodeOfEncode :
    (Instr.csrWrite 0x1FFFF 0xFFFFFFFF).wellFormed = true ∧ (Instr.ckInit 3).wellFormed = true := by decide
theorem witness_CmdWriteRunsItsCommand :
    addressesCmd 0x00017 = true ∧ decodeCmd 0x00000310 = some (.ckInit 3) ∧ decodeCmd 0x0000FF11 = some (.ckByte 0xFF) := by
  decide
theorem witness_StepRunsTheDecodedOperation :
    let l : Line := { rst := false, byte := some 0x55, bus := some (.write 0x00014 0x00000001), hold := false }
    let s : State := { tc with script := [l] }
    (s.offer = none ∧ s.script = [l] ∧ l.rst = false ∧ l.port = some (.bus (.write 0x00014 0x00000001))) ∧
      (let idle : Line := { rst := false, byte := none, bus := none, hold := true }
       let u : State := { tc with script := [idle] }
       u.offer = none ∧ u.script = [idle] ∧ idle.rst = false ∧ idle.byte = none ∧ idle.bus = none) ∧
      ({ tc with offer := some 0x55 } : State).offer = some 0x55 ∧ (tc.offer = none ∧ tc.script = []) ∧
      decodeTableWord 32 0x00000310 = some (.ckInit 3) := by decide
theorem witness_ResetStep :
    let l : Line := { rst := true, byte := some 0x55, bus := some (.read 0), hold := true }
    let s : State := { held with script := [l] }
    s.offer = none ∧ s.script = [l] ∧ l.rst = true := by decide
/-- States that fit, for every statement with that hypothesis: the boundary index, and the phases that process nothing. -/
theorem witness_fits :
    ({ tc with cfg := { tc.cfg with fbufBytes := 264 }, idx := 263 } : State).fits ∧ held.fits ∧ faulted.fits ∧ tc.fits ∧
      tcOff.fits := by unfold State.fits; decide
theorem witness_RegisterReadValues :
    (([0x0001C, 0x0003F, 0x00054, 0x0005C, 0x00068, 0x000FC, 0x00120, 0x001FC, 0x00208, 0x0020C, 0x00248, 0x0024F,
        0x00250, 0x0FFFF] : List Addr).all fun a =>
      let w := (a &&& 0x1FFFC).toNat
      w = 0x01C ∨ w = 0x03C ∨ (0x054 ≤ w ∧ w ≤ 0x05C) ∨ (0x068 ≤ w ∧ w ≤ 0x0FC) ∨ (0x120 ≤ w ∧ w ≤ 0x1FC) ∨
        (0x200 ≤ w ∧ w < 0x250 ∧ (w % 16 = 8 ∨ w % 16 = 12)) ∨ (0x250 ≤ w ∧ w ≤ 0xFFFC)) = true := by decide
theorem witness_StatusFields : faulted.rq.length ≤ 3 ∧ faulted.rq.length = 3 := by decide
theorem witness_WindowReadLanes :
    let s : State := { held with cfg := { held.cfg with fbufBytes := 265 }, fbuf := [(264, 0x77)] }
    let a : Addr := 0x10108
    a.getLsbD 16 = true ∧ (a.toNat - 0x10000) / 4 * 4 = 264 ∧
      (264 + 0 < s.cfg.fbufBytes ∧ s.fbuf.read (264 + 0) = some 0x77) ∧ s.cfg.fbufBytes ≤ 264 + 1 := by decide
theorem witness_RefusedWrites :
    ∀ p ∈ ([(0x00000, tcOff), (0x0001C, tcOff), (0x1FFFF, tcOff), (0x00120, tcOff), (0x00208, tcOff), (0x00250, tcOff),
        (0x00100, tc), (0x0011F, tc), (0x00200, tc), (0x00247, tc)] : List (Addr × State)),
      let w := (p.1 &&& 0x1FFFC).toNat
      let table := (0x100 ≤ w ∧ w < 0x120) ∨ (0x200 ≤ w ∧ w < 0x250 ∧ (w % 16 = 0 ∨ w % 16 = 4))
      w ≠ 0x004 ∧ w ≠ 0x00C ∧ w ≠ 0x010 ∧ w ≠ 0x014 ∧ (table → p.2.en = true) := by decide
/-- CtrlWrite, EventsWriteOneToClear and IrqEnWrite: the lowest and the highest byte address of the register. -/
theorem witness_register_writes :
    (0x00004 : Addr) &&& 0x1FFFC = 0x00004 ∧ (0x00007 : Addr) &&& 0x1FFFC = 0x00004 ∧
      ((0x0000C : Addr) &&& 0x1FFFC = 0x0000C ∧ (0x0000F : Addr) &&& 0x1FFFC = 0x0000C) ∧
      (0x00010 : Addr) &&& 0x1FFFC = 0x00010 ∧ (0x00013 : Addr) &&& 0x1FFFC = 0x00010 := by decide
theorem witness_IrqEnWrite :
    after (exec (.csrWrite 0x00010 0x01) tc) (fun u => after (exec .nop u) fun _ => true) = true := by decide
/-- LutSigWrite, VdescCfgWrite and VdescTmapWrite: both values of EN fit. -/
theorem witness_table_writes : (tc.fits ∧ tc.en = true) ∧ tcOff.fits ∧ tcOff.en = false := by unfold State.fits; decide
theorem witness_ReservedCommandWords :
    addressesCmd 0x00014 = true ∧
      (0x00010011 : Word).extractLsb' 16 16 ≠ 0 ∧
      (([0x04, 0x0F, 0x12, 0xFF] : List Word).all fun d =>
        3 < (d.extractLsb' 0 8).toNat ∧ (d.extractLsb' 0 8).toNat ≠ 0x10 ∧ (d.extractLsb' 0 8).toNat ≠ 0x11) = true ∧
      (([0x0100, 0xFF03] : List Word).all fun d =>
        (d.extractLsb' 0 8).toNat ≤ 3 ∧ d.extractLsb' 8 8 ≠ 0) = true ∧
      (([0x0310, 0x0410] : List Word).all fun d => (d.extractLsb' 0 8).toNat = 0x10 ∧
        ((d.extractLsb' 8 8).extractLsb' 0 2 = 3 ∨ (d.extractLsb' 8 8).extractLsb' 2 6 ≠ 0)) = true := by decide
/-- The refused words of NopEffect, AbortEffect, ReleaseEffect and ClrCountersEffect. -/
theorem witness_command_arguments :
    (([0, 1, 2, 3] : List Word).all fun k => ([0x0100, 0x80000000] : List Word).all fun x =>
      (x ||| k).extractLsb' 0 8 = k.setWidth 8 ∧ (x ||| k).extractLsb' 8 24 ≠ 0) = true := by decide
/-- ReleaseEffect: the stream part leaves Complete, and it leaves another phase. -/
theorem witness_ReleaseEffect :
    after (idleEdge held) (fun t => t.ph = .complete) = true ∧
      after (idleEdge faulted) (fun t => t.ph ≠ .complete) = true := by decide
/-- CkInitEffect: the code 3, and a nonzero ARG[7:2] and MBZ. -/
theorem witness_CkInitEffect :
    (([0x0310, 0x0410, 0x80000010] : List Word).all fun d =>
      d.extractLsb' 0 8 = 0x10 ∧ (d.extractLsb' 8 2 = 3 ∨ d.extractLsb' 10 22 ≠ 0)) = true := by decide
theorem witness_ReleaseFromComplete : held.ph = .complete := by decide
theorem witness_EngineComputesTheStrategy : tc.Inv := tc_inv
theorem witness_EngineIsIndependent :
    after (exec (.ckByte 0x41) tc) (fun _ => true) = true ∧ after (exec (.ckByte 0x41) held) (fun _ => true) = true ∧
      tc.engine = held.engine ∧ tc.cfg.crc16Init = held.cfg.crc16Init := by decide
theorem witness_IdleStep :
    (tc.ph ≠ .faulted ∧ (tc.rq = [] ∨ tc.en = false) ∧ (tc.offer = none ∨ tc.inReady = false)) ∧
      let s : State := { replaying with en := false, offer := some 0x55 }
      s.ph ≠ .faulted ∧ (s.rq = [] ∨ s.en = false) ∧ (s.offer = none ∨ s.inReady = false) := by decide
theorem witness_ByteTakenExactlyWhenReady : tc.inReady = true ∧ held.inReady = false := by decide
theorem witness_HuntDiscards :
    (tc.inReady = true ∧ tc.idx = 0 ∧ ¬ tc.Candidate 0x00 ∧ tc.locked = false) ∧
      lockedHunting.inReady = true ∧ lockedHunting.idx = 0 ∧ ¬ lockedHunting.Candidate 0x00 ∧
        lockedHunting.locked = true := by
  unfold State.Candidate
  decide
theorem witness_SyncAccept : tc.inReady = true ∧ tc.cfg.wf = true ∧ tc.idx = 0 ∧ tc.Candidate 0xA5 := by
  unfold State.Candidate
  decide
theorem witness_DispatchLatchesTheVariant :
    let s : State := { tc with idx := 1, hdr := { Header.zero with sync := 0x55 } }
    s.inReady = true ∧ s.cfg.wf = true ∧ s.idx = 1 ∧ s.Selects 1 s.hdr.sync ((0x01 : Byte).extractLsb' 4 4) ∧
      s.vcfg[s.lut[(1 : Fin 8)].variant].versionMask.getLsbD ((0x01 : Byte).extractLsb' 0 4).toNat = true := by
  unfold State.Selects State.EntryMatches
  decide
theorem witness_DispatchFailures :
    let s : State := { tc with idx := 1, hdr := { Header.zero with sync := 0xAA } }
    (s.inReady = true ∧ s.cfg.wf = true ∧ s.idx = 1) ∧
      (∀ i : Fin 8, ¬ s.EntryMatches i s.hdr.sync ((0x61 : Byte).extractLsb' 4 4)) ∧
      s.Selects 0 s.hdr.sync ((0x03 : Byte).extractLsb' 4 4) ∧
      s.vcfg[s.lut[(0 : Fin 8)].variant].versionMask.getLsbD ((0x03 : Byte).extractLsb' 0 4).toNat = false := by
  unfold State.Selects State.EntryMatches
  decide
/-- Lmin is 14 here, and FBUF_BYTES 264: lengths 14 and 264 are accepted, 13 is too small, 265 too large. -/
theorem witness_LengthBytes :
    let s : State := { atIndex4 with idx := 3, cfg := { atIndex4.cfg with fbufBytes := 264 } }
    let s2 : State := { s with idx := 2 }
    (s2.inReady = true ∧ s2.cfg.wf = true ∧ s2.idx = 2) ∧ (s.inReady = true ∧ s.cfg.wf = true ∧ s.idx = 3) ∧
      ({ s.hdr with flen := (0x01 : Byte) ++ (0 : Byte) } : Header).flen = (0x01 : Byte) ++ (0 : Byte) ∧
      (s.minLen ≤ (0x00 : Byte) ++ (0x0E : Byte) ∧ ((0x01 : Byte) ++ (0x08 : Byte)).toNat ≤ s.cfg.fbufBytes) ∧
      (0x00 : Byte) ++ (0x0D : Byte) < s.minLen ∧ s.cfg.fbufBytes < ((0x01 : Byte) ++ (0x09 : Byte)).toNat := by decide
/-- The first byte of the body, and the first checksum byte. -/
theorem witness_BodyByte :
    ∀ s ∈ [atIndex4, { atLastByte with idx := 12 }],
      s.inReady = true ∧ 4 ≤ s.idx.toNat ∧ s.idx.toNat + 1 < s.hdr.flen.toNat ∧
        s.hdr.flen.toNat ≤ s.cfg.fbufBytes := by decide
theorem witness_LastByteCompares :
    (atLastByte.inReady = true ∧ 4 ≤ atLastByte.idx.toNat ∧ atLastByte.idx.toNat + 1 = atLastByte.hdr.flen.toNat ∧
      atLastByte.hdr.flen.toNat ≤ atLastByte.cfg.fbufBytes) ∧
      atLastByte.ctx.alg = .xorSum ∧ atLastByte.acc.x = atLastByte.ckr0 ++ (0x0E : Byte) ∧
      atLastByte.acc.x ≠ atLastByte.ckr0 ++ (0x0F : Byte) := by decide
theorem witness_ReplayIsAsIfFromThePort :
    replaying.en = true ∧ replaying.ph = .awaitingHeader ∧ replaying.rq = 0x01 :: [0x00, 0x05] ∧ replaying.fits := by
  unfold State.fits
  decide
theorem witness_FaultedLastsOneStep : faulted.ph = .faulted ∧ WritesCmd .abort 0x00000001 := ⟨by decide, .inr (by decide)⟩
theorem witness_CompleteHoldsTheFrame :
    held.ph = .complete ∧ ¬ WritesCmd (.streamByte 0x55) 0x00000001 ∧ ¬ WritesCmd (.streamByte 0x55) 0x00000002 := by
  refine ⟨by decide, ?_, ?_⟩ <;>
    · rintro (⟨a, -, h⟩ | h)
      · cases h
      · exact absurd h (by decide)
/-- A step that answers next, for FrameBufferFrame, DispatchTableIsReadOnlyWhileEnabled, CountersFollowTheEvents,
ErrorRecords, MooreOutputs and the invariants, with a byte accepted and with one discarded. -/
theorem witness_next_states :
    (after (exec (.streamByte 0x55) tc) (fun t => t.evq = none ∧ t.idx = 1) = true ∧ tc.en = true ∧ tc.idx = 0) ∧
      tc.Candidate 0x55 ∧ tc.ProcessesByte (.streamByte 0x55) 0x55 ∧ ¬ WritesCmd (.streamByte 0x55) 0x00000003 ∧
      (after (exec (.streamByte 0x00) lockedHunting) (fun t => t.evq = some .malformedHeader ∧ t.cnt.skipped = 1) = true ∧
        ¬ lockedHunting.Candidate 0x00 ∧ lockedHunting.ProcessesByte (.streamByte 0x00) 0x00) := by
  refine ⟨by decide, by unfold State.Candidate; decide, ⟨by decide, _, rfl⟩, ?_, by decide, by unfold State.Candidate; decide,
    ⟨by decide, _, rfl⟩⟩
  rintro (⟨a, -, h⟩ | h)
  · cases h
  · exact absurd h (by decide)
/-- Each error event of ErrorRecords has a step; BAD_SYNC's is in witness_next_states. -/
theorem witness_ErrorRecords :
    let byte1 : State := { tc with idx := 1, hdr := { Header.zero with sync := 0xAA } }
    let byte3 : State := { atIndex4 with idx := 3, hdr := { atIndex4.hdr with flen := 0 } }
    let small : State := { byte3 with cfg := { byte3.cfg with fbufBytes := 264 }, hdr := { byte3.hdr with flen := 0x0100 } }
    after (exec (.streamByte 0x61) byte1) (fun t => t.err.reason = .unknownSignature) = true ∧
      after (exec (.streamByte 0x03) byte1) (fun t => t.err.reason = .badVersion) = true ∧
      after (exec (.streamByte 0x0D) byte3) (fun t => t.err.reason = .lengthTooSmall) = true ∧
      after (exec (.streamByte 0x09) small) (fun t => t.err.reason = .lengthTooLarge) = true ∧
      after (exec (.streamByte 0x0F) atLastByte) (fun t => t.err.reason = .checksumMismatch) = true ∧ atLastByte.Inv :=
  ⟨by decide, by decide, by decide, by decide, by decide, atLastByte_inv⟩
theorem witness_BusErrOnlyFromWriteReleaseOrCkInit3 :
    after (exec .release tc) (fun t => t.events.getLsbD 5) = true ∧ tc.events.getLsbD 5 = false := by decide
/-- A phase of a configuration frame of 26 bytes in variant 0: BS = 20, FS = 22, CS = 24. -/
def configAt (idx : Half) (ph : Phase) : State :=
  { tc with
    idx := idx
    ph := ph
    hdr := { Header.zero with sync := 0xAA, tv := 0x31, flen := 26 }
    ctx := { Context.zero with frac := 2, foot := 2, off := 18 } }
/-- The length checks hold, and rule R177's phases at the first and the last index of each range. -/
theorem witness_FrameGeometry :
    (configAt 4 .awaitingHeader).LengthOk ∧
      [4, 13, 14, 19, 20, 21, 22, 23, 24, 25].map (configAt 4 .awaitingHeader).phaseOf =
        [.awaitingHeader, .awaitingHeader, .headerParsed, .headerParsed, .parsingCells, .parsingCells, .awaitingFooter,
          .awaitingFooter, .awaitingChecksum, .awaitingChecksum] := by
  unfold State.LengthOk
  decide
/-- Every phase, at the first and the last index of its range. -/
theorem witness_NeedReport :
    (held.Inv ∧ held.ph = .complete) ∧ (faulted.Inv ∧ faulted.ph = .faulted) ∧
      (tc.Inv ∧ tc.ph.receiving ∧ tc.ph = .awaitingHeader ∧ tc.idx.toNat ≤ 1) ∧
      ((configAt 4 .awaitingHeader).Inv ∧ (configAt 13 .awaitingHeader).Inv) ∧
      ((configAt 14 .headerParsed).Inv ∧ (configAt 19 .headerParsed).Inv) ∧
      ((configAt 20 .parsingCells).Inv ∧ (configAt 21 .parsingCells).Inv) ∧
      ((configAt 22 .awaitingFooter).Inv ∧ (configAt 23 .awaitingFooter).Inv) ∧
      (configAt 24 .awaitingChecksum).Inv ∧ (configAt 25 .awaitingChecksum).Inv := by
  refine ⟨⟨held_inv, by decide⟩, ⟨faulted_inv, by decide⟩, ⟨tc_inv, by unfold Phase.receiving; decide, by decide, by decide⟩,
    ⟨?_, ?_⟩, ⟨?_, ?_⟩, ⟨?_, ?_⟩, ⟨?_, ?_⟩, ?_, ?_⟩ <;>
    exact ⟨by decide, by decide, by decide, by decide, by unfold State.ReplayOk; decide,
      by unfold State.PositionOk Phase.receiving State.LengthOk; decide⟩
theorem witness_ChecksumDetectsAnyOneByte : 0 < shortFrame.length ∧ shortFrame[0] ≠ 0x54 := by decide
theorem witness_NoFaultUnderTheInvariant : faulted.Inv := faulted_inv
theorem witness_StepKeepsTheInvariant : held.Inv := held_inv
theorem witness_StepKeepsTheFrameInvariant :
    atLastByte.Inv ∧ atLastByte.FrameInv ∧ after (step atLastByte) (fun _ => true) = true :=
  ⟨atLastByte_inv, atLastByte_frame, by decide⟩
theorem witness_EventTellsWhetherTheChecksumMatches :
    atLastByte.Inv ∧ atLastByte.FrameInv ∧
      after (exec (.streamByte 0x0E) atLastByte) (fun t => t.evq = some .frameOk) = true ∧
      after (exec (.streamByte 0x0F) atLastByte) (fun t => t.evq = some .checksumMismatch) = true :=
  ⟨atLastByte_inv, atLastByte_frame, by decide, by decide⟩
theorem witness_StreamResumesWithinEightSteps :
    faulted.Inv ∧ faulted.en = true ∧ faulted.ph ≠ .complete ∧ faulted.offer = none :=
  ⟨faulted_inv, by decide, by decide, by decide⟩
theorem witness_PartialReadResilience :
    tc.offer = none ∧ TakesEach ([(2, 0x55), (1, 0x01)].map Prod.snd) tc ∧
      ∃ t, feed ([(2, 0x55), (1, 0x01)].map Prod.snd) tc = .next t := by
  obtain ⟨t, h, -⟩ := next_of_after (o := feed [0x55, 0x01] tc) (p := fun _ => true) (by decide)
  exact ⟨by decide, takesEach_of_takesAll _ _ (by decide), t, h⟩
theorem witness_CorruptedByteIsCaught :
    tc.Inv ∧ tc.ph = .awaitingHeader ∧ tc.idx = 0 ∧ tc.offer = none ∧ TakesEach shortFrame tc ∧
      (∃ t, feed shortFrame tc = .next t ∧ t.ph = .complete ∧ t.hdr.flen.toNat = shortFrame.length) ∧
      ∃ h : 4 < shortFrame.length, shortFrame[4] ≠ 0x01 := by
  obtain ⟨t, h, ht⟩ :=
    next_of_after (o := feed shortFrame tc)
      (p := fun t => t.ph = .complete ∧ t.hdr.flen.toNat = shortFrame.length) (by decide)
  exact ⟨tc_inv, by decide, by decide, by decide, takesEach_of_takesAll _ _ (by decide), ⟨t, h, by simpa using ht⟩, by decide,
    by decide⟩

end Sys2Proof.Machine.Tests
end

section
/-! PROOFS. Lists of frame bytes, the frame geometry in numbers, and the header capture. -/

namespace Sys2Proof.Machine

/-! ### Lists of frame bytes -/

theorem slice_concat_inside {d : List Byte} {lo hi : Nat} (b : Byte) (hlo : lo ≤ d.length) (hhi : d.length < hi) :
    slice (d ++ [b]) lo hi = slice d lo hi ++ [b] := by
  have hd : d.take hi = d := List.take_of_length_le (by omega)
  have hdb : (d ++ [b]).take hi = d ++ [b] := List.take_of_length_le (by simp; omega)
  rw [slice, slice, hd, hdb, List.drop_append_of_le_length hlo]

theorem slice_of_length_le {d : List Byte} {lo : Nat} (hi : Nat) (h : d.length ≤ lo) : slice d lo hi = [] :=
  List.drop_of_length_le (by simp; omega)

theorem slice_concat_outside {d : List Byte} {lo hi : Nat} (b : Byte) (h : d.length < lo ∨ hi ≤ d.length) :
    slice (d ++ [b]) lo hi = slice d lo hi := by
  rcases h with h | h
  · rw [slice_of_length_le hi (by simp; omega), slice_of_length_le hi (by omega)]
  · rw [slice, slice, List.take_append_of_le_length h]

theorem bigEndian_concat (w : Nat) (bs : List Byte) (b : Byte) :
    bigEndian w (bs ++ [b]) = bigEndian w bs <<< 8 ||| b.setWidth w := by
  simp [bigEndian, List.foldl_append]

/-- A field of the bytes so far, with one more byte: shifted in where the byte belongs to the field. -/
theorem bigEndian_slice_concat (w : Nat) (d : List Byte) (b : Byte) (lo hi : Nat) :
    bigEndian w (slice (d ++ [b]) lo hi) =
      if lo ≤ d.length ∧ d.length < hi then bigEndian w (slice d lo hi) <<< 8 ||| b.setWidth w
      else bigEndian w (slice d lo hi) := by
  split
  next h => rw [slice_concat_inside b h.1 h.2, bigEndian_concat]
  next h => rw [slice_concat_outside b (by omega)]

/-- Assembling a field byte by byte is shifting the byte in. -/
theorem shiftIn_byte {n : Nat} (v : BitVec (n + 8)) (b : Byte) :
    v.extractLsb' 0 n ++ b = v <<< 8 ||| b.setWidth (n + 8) := by
  ext i hi
  rw [BitVec.getElem_append]
  by_cases h : i < 8
  · simp [h]
  · have hb : b.getLsbD i = false := BitVec.getLsbD_of_ge _ _ (by omega)
    simp only [h, hb, BitVec.getElem_extractLsb', BitVec.getElem_or, BitVec.getElem_shiftLeft, BitVec.getElem_setWidth,
      Nat.zero_add, dite_false, Bool.or_false]
    exact BitVec.getLsbD_eq_getElem (by omega)

theorem ckFold_concat (alg : CkAlg) (c : Half) (j : Nat) (d : List Byte) (b : Byte) :
    ckFold alg c j (d ++ [b]) = ckUpd alg (ckFold alg c j d) b ((j + d.length) % 2 == 1) := by
  induction d generalizing c j with
  | nil => rfl
  | cons x d ih =>
    rw [List.cons_append, ckFold, ih, ckFold, List.length_cons, Nat.add_assoc, Nat.add_comm 1]

theorem cks_concat (cfg : Config) (alg : CkAlg) (d : List Byte) (b : Byte) :
    cks cfg alg (d ++ [b]) = ckUpd alg (cks cfg alg d) b (d.length % 2 == 1) := by
  rw [cks, ckFold_concat, Nat.zero_add, cks]

/-- FBUF after the frame's next byte. -/
theorem Memory.read_write_concat {m : Memory} {d : List Byte} (b : Byte) (h : ∀ k < d.length, m.read k = d[k]?) :
    ∀ k < (d ++ [b]).length, (m.write d.length b).read k = (d ++ [b])[k]? := by
  intro k hk
  rw [List.length_append, List.length_singleton] at hk
  by_cases hkd : k = d.length
  · rw [hkd, Memory.read_write_same, List.getElem?_concat_length]
  · rw [Memory.read_write_other _ _ _ _ hkd, h k (by omega), List.getElem?_append_left (by omega)]

/-! ### Geometry -/

theorem headerLen_toNat (s : State) : s.headerLen.toNat = 12 + s.ctx.frac.val := by
  have := s.ctx.frac.isLt
  unfold State.headerLen State.fracWidth
  bv_omega

theorem footLen_le_two (s : State) : s.footLen.toNat ≤ 2 := by
  have := s.ctx.foot.isLt
  unfold State.footLen
  split
  · simp only [BitVec.toNat_ofNat]
    omega
  · simp

theorem cellOff_toNat (s : State) : s.cellOff.toNat = s.ctx.off.toNat := by
  have := s.ctx.off.isLt
  simp only [State.cellOff, BitVec.toNat_setWidth]
  omega

/-- Where the frame has a cell count, it stands behind the header. -/
theorem headerLen_le_cellOff {s : State} (h : s.hasCells = true) : s.headerLen.toNat ≤ s.cellOff.toNat := by
  simp only [State.hasCells, Bool.and_eq_true, decide_eq_true_eq] at h
  exact h.2

theorem bodyStart_toNat (s : State) :
    s.bodyStart.toNat = if s.hasCells then s.cellOff.toNat + 2 else s.headerLen.toNat := by
  have := s.ctx.off.isLt
  have := cellOff_toNat s
  unfold State.bodyStart
  split
  · rw [BitVec.toNat_add]
    simp
    omega
  · rfl

theorem headerLen_le_bodyStart (s : State) : s.headerLen.toNat ≤ s.bodyStart.toNat := by
  rw [bodyStart_toNat]
  split
  next h => exact (headerLen_le_cellOff h).trans (Nat.le_add_right _ _)
  next => exact le_rfl

theorem minLen_toNat (s : State) : s.minLen.toNat = s.bodyStart.toNat + s.footLen.toNat + 2 := by
  have := s.ctx.off.isLt
  have := s.ctx.frac.isLt
  have := cellOff_toNat s
  have := headerLen_toNat s
  have := footLen_le_two s
  have hb : s.bodyStart.toNat ≤ 257 := by
    rw [bodyStart_toNat]
    split <;> omega
  unfold State.minLen
  bv_omega

/-- CS is the length less the two checksum bytes, behind the header and the cell count. -/
theorem State.LengthOk.bodyStart_le_cksumStart {s : State} (h : s.LengthOk) :
    s.cksumStart.toNat + 2 = s.hdr.flen.toNat ∧ s.bodyStart.toNat ≤ s.cksumStart.toNat := by
  have hle : s.minLen.toNat ≤ s.hdr.flen.toNat := h.1
  have := minLen_toNat s
  have := s.hdr.flen.isLt
  have hcs : s.cksumStart.toNat + 2 = s.hdr.flen.toNat := by
    unfold State.cksumStart
    bv_omega
  omega


theorem State.LengthOk.four_le_cksumStart {s : State} (h : s.LengthOk) : 4 ≤ s.cksumStart.toNat := by
  have := h.bodyStart_le_cksumStart.2
  have := headerLen_le_bodyStart s
  have := headerLen_toNat s
  omega

/-! ### The header registers, byte by byte -/

/-- Before index 4 no field behind the length holds anything. -/
theorem headerHolds_iff_of_short {s : State} {d : List Byte} (h : d.length ≤ 4) :
    s.HeaderHolds d ↔
      s.hdr.sync = d.getD 0 0 ∧ s.hdr.tv = d.getD 1 0 ∧ s.hdr.flen = d.getD 2 0 ++ d.getD 3 0 ∧
        s.hdr.idc = 0 ∧ s.hdr.soc = 0 ∧ s.hdr.frac = 0 ∧ s.hdr.cells = 0 := by
  have hcells : (if s.hasCells then bigEndian 16 (slice d s.cellOff.toNat (s.cellOff.toNat + 2)) else 0) = 0 := by
    split
    next hc =>
      have := headerLen_le_cellOff hc
      have := headerLen_toNat s
      rw [slice_of_length_le _ (by omega)]
      rfl
    next => rfl
  rw [State.HeaderHolds, hcells, slice_of_length_le 6 h, slice_of_length_le 10 (by omega), slice_of_length_le _ (by omega)]
  rfl

theorem capture_sync (s : State) (b : Byte) (j : Half) : (s.capture b j).sync = s.hdr.sync := by
  unfold State.capture
  grind

theorem capture_tv (s : State) (b : Byte) (j : Half) : (s.capture b j).tv = s.hdr.tv := by
  unfold State.capture
  grind

theorem capture_flen (s : State) (b : Byte) (j : Half) : (s.capture b j).flen = s.hdr.flen := by
  unfold State.capture
  grind

theorem capture_idc (s : State) (b : Byte) (j : Half) :
    (s.capture b j).idc = if j = 4 ∨ j = 5 then s.hdr.idc <<< 8 ||| b.setWidth 16 else s.hdr.idc := by
  rw [← shiftIn_byte (n := 8)]
  unfold State.capture
  grind

theorem capture_soc (s : State) (b : Byte) (j : Half) :
    (s.capture b j).soc = if 6 ≤ j ∧ j ≤ 9 then s.hdr.soc <<< 8 ||| b.setWidth 32 else s.hdr.soc := by
  rw [← shiftIn_byte (n := 24)]
  unfold State.capture
  grind

theorem capture_frac (s : State) (b : Byte) (j : Half) :
    (s.capture b j).frac = if 10 ≤ j ∧ j < s.headerLen then s.hdr.frac <<< 8 ||| b.setWidth 32 else s.hdr.frac := by
  rw [← shiftIn_byte (n := 24)]
  unfold State.capture
  grind

theorem capture_cells (s : State) (b : Byte) (j : Half) :
    (s.capture b j).cells =
      if s.hasCells ∧ (j = s.cellOff ∨ j = s.cellOff + 1) then s.hdr.cells <<< 8 ||| b.setWidth 16
      else s.hdr.cells := by
  rw [← shiftIn_byte (n := 8)]
  unfold State.capture
  grind

end Sys2Proof.Machine

end

section
/-! PROOFS. The accumulators, the length, and the first bytes of the frame so far. -/

namespace Sys2Proof.Machine

/-! ### The accumulators, byte by byte -/

/-- The three strategies' values of a sequence. -/
def Accumulators.ofBytes (cfg : Config) (p : List Byte) : Accumulators :=
  { cc := cks cfg .ccitt p, c16 := cks cfg .crc16 p, x := cks cfg .xorSum p }

theorem accumulatorsHold_iff {s : State} {d : List Byte} :
    s.AccumulatorsHold d ↔ s.acc = Accumulators.ofBytes s.cfg (d.take (s.accumulated d.length)) := by
  exact (Accumulators.mk.injEq ..).symm.to_iff

theorem start_eq_ofBytes (cfg : Config) (b : Byte) : Accumulators.start cfg b = Accumulators.ofBytes cfg [b] := rfl

theorem next_ofBytes (cfg : Config) {p : List Byte} (b : Byte) {j : Half} (h : p.length = j.toNat) :
    (Accumulators.ofBytes cfg p).next b j = Accumulators.ofBytes cfg (p ++ [b]) := by
  have hodd : j.getLsbD 0 = (p.length % 2 == 1) := by
    rw [h, BitVec.getLsbD, Nat.testBit_zero]
    rfl
  simp only [Accumulators.ofBytes, Accumulators.next, cks_concat, ckUpd, hodd]

theorem accumulated_of_le {s : State} {n : Nat} (h : n < 4 ∨ n ≤ s.cksumStart.toNat) : s.accumulated n = n := by
  unfold State.accumulated
  split <;> omega

theorem accumulated_of_ge {s : State} {n : Nat} (h4 : 4 ≤ n) (h : s.cksumStart.toNat ≤ n) :
    s.accumulated n = s.cksumStart.toNat := by
  simp [State.accumulated, h4, h]

/-- Before index 4 every byte is accumulated. -/
theorem State.Holds.acc_of_short {s : State} {d : List Byte} (h : s.Holds d) (hd : d.length < 4) :
    s.acc = Accumulators.ofBytes s.cfg d := by
  rw [accumulatorsHold_iff.mp h.accumulators, accumulated_of_le (.inl hd), List.take_length]

/-- The accumulator of the latched algorithm. -/
theorem computedCk_ofBytes {s : State} {p : List Byte} (h : s.acc = Accumulators.ofBytes s.cfg p) :
    s.computedCk = cks s.cfg s.ctx.alg p := by
  unfold State.computedCk
  rw [h]
  split
  next ha => rw [ha]; rfl
  next ha => rw [ha]; rfl
  next ha => rw [ha]; rfl

/-! ### The length, byte by byte -/

theorem append_byte_eq {n : Nat} (hi : BitVec n) (lo : Byte) :
    hi ++ lo = hi.setWidth (n + 8) <<< 8 ||| lo.setWidth (n + 8) := by
  ext i h
  rw [BitVec.getElem_append]
  by_cases h8 : i < 8
  · simp [h8]
  · have hlo : lo.getLsbD i = false := BitVec.getLsbD_of_ge _ _ (by omega)
    simp [h8, hlo, BitVec.getLsbD_eq_getElem (show i - 8 < n by omega)]

theorem high_byte_eq_append (hi : Byte) : hi.setWidth 16 <<< 8 = hi ++ (0 : Byte) := by
  rw [append_byte_eq]
  simp

theorem append_or_low_byte (hi lo : Byte) : (hi ++ (0 : Byte)) ||| lo.setWidth 16 = hi ++ lo := by
  rw [append_byte_eq, append_byte_eq]
  simp

/-! ### The frame so far, byte by byte -/

theorem State.Holds.buffered_concat {s : State} {d : List Byte} (h : s.Holds d) (b : Byte) :
    ∀ k < (d ++ [b]).length, (s.fbuf.write s.idx.toNat b).read k = (d ++ [b])[k]? :=
  h.length_eq ▸ Memory.read_write_concat b h.buffered

theorem syncAccept_holds {s : State} (b : Byte) (hidx : s.idx = 0) : (syncAccept s b).st.Holds [b] where
  length_eq := rfl
  buffered := by
    have h0 : s.idx.toNat = ([] : List Byte).length := by rw [hidx]; rfl
    change ∀ k < ([] ++ [b] : List Byte).length, (s.fbuf.write s.idx.toNat b).read k = ([] ++ [b])[k]?
    rw [h0]
    exact Memory.read_write_concat b (by simp)
  header := (headerHolds_iff_of_short (by simp)).mpr ⟨rfl, rfl, high_byte_eq_append 0, rfl, rfl, rfl, rfl⟩
  accumulators := accumulatorsHold_iff.mpr (start_eq_ofBytes s.cfg b)
  first_checksum_byte := by simp
  accepted := nofun

/-- Bytes 1 to 3 are held where the state they leave keeps the fields behind the length at 0. -/
theorem State.Holds.concat_short {s t : State} {d : List Byte} {b : Byte} (h : s.Holds d) (hd : d.length < 4)
    (hidx : t.idx.toNat = s.idx.toNat + 1) (hfbuf : t.fbuf = s.fbuf.write s.idx.toNat b) (hcfg : t.cfg = s.cfg)
    (hacc : t.acc = s.acc.next b s.idx) (hok : d.length = 3 → t.LengthOk)
    (hph : t.ph ≠ .complete) (hhdr : t.HeaderHolds (d ++ [b])) : t.Holds (d ++ [b]) where
  length_eq := by rw [List.length_append, List.length_singleton, h.length_eq, hidx]
  buffered := hfbuf ▸ h.buffered_concat b
  header := hhdr
  accumulators := by
    have hall : t.accumulated (d ++ [b]).length = (d ++ [b]).length := by
      apply accumulated_of_le
      rw [List.length_append, List.length_singleton]
      by_cases h3 : d.length = 3
      · have := (hok h3).four_le_cksumStart
        omega
      · omega
    rw [accumulatorsHold_iff, hall, List.take_length, hacc, hcfg, h.acc_of_short hd, next_ofBytes _ _ h.length_eq]
  first_checksum_byte := by
    rw [List.length_append, List.length_singleton]
    intro h4 hcs
    have := (hok (by omega)).four_le_cksumStart
    omega
  accepted hc := absurd hc hph

theorem byte1_holds {s : State} {d : List Byte} (b : Byte) (h : s.Holds d) (hidx : s.idx = 1) :
    (byte1 s b).st.ph = .faulted ∨ (byte1 s b).st.Holds (d ++ [b]) := by
  have hlen : d.length = 1 := by rw [h.length_eq, hidx]; rfl
  obtain ⟨b0, rfl⟩ := List.length_eq_one_iff.mp hlen
  obtain ⟨hsync, -, hflen, hrest⟩ := (headerHolds_iff_of_short (by simp)).mp h.header
  unfold byte1
  dsimp only
  split
  next => exact .inl rfl
  next e _ =>
    split
    next =>
      refine .inr (h.concat_short (by simp) (by rw [hidx]; rfl) rfl rfl rfl (by simp) nofun ?_)
      exact (headerHolds_iff_of_short (by simp)).mpr ⟨hsync, rfl, hflen, hrest⟩
    next => exact .inl rfl

theorem byte2_holds {s : State} {d : List Byte} (b : Byte) (h : s.Holds d) (hidx : s.idx = 2) :
    (byte2 s b).st.Holds (d ++ [b]) := by
  have hlen : d.length = 2 := by rw [h.length_eq, hidx]; rfl
  obtain ⟨b0, b1, rfl⟩ := List.length_eq_two.mp hlen
  obtain ⟨hsync, htv, -, hrest⟩ := (headerHolds_iff_of_short (by simp)).mp h.header
  refine h.concat_short (by simp) (by rw [hidx]; rfl) rfl rfl rfl (by simp) nofun ?_
  refine (headerHolds_iff_of_short (by simp)).mpr ⟨hsync, htv, ?_, hrest⟩
  exact high_byte_eq_append b

end Sys2Proof.Machine

end

section
/-! PROOFS. Every byte accepted into a frame is its next byte (rules R142 to R152, R190). -/

namespace Sys2Proof.Machine

theorem phaseOf_receiving (s : State) (i : Half) : (s.phaseOf i).receiving := by
  unfold State.phaseOf Phase.receiving
  grind

theorem byte3_holds {s : State} {d : List Byte} (b : Byte) (h : s.Holds d) (hidx : s.idx = 3) :
    (byte3 s b).st.ph = .faulted ∨ (byte3 s b).st.Holds (d ++ [b]) := by
  have hlen : d.length = 3 := by rw [h.length_eq, hidx]; rfl
  obtain ⟨b0, b1, b2, rfl⟩ := List.length_eq_three.mp hlen
  obtain ⟨hsync, htv, hflen, hrest⟩ := (headerHolds_iff_of_short (by simp)).mp h.header
  unfold byte3
  dsimp only
  split
  next => exact .inl rfl
  next hmin =>
    split
    next => exact .inl rfl
    next hmax =>
      refine .inr (h.concat_short (by simp) (by rw [hidx]; rfl) rfl rfl rfl
        (fun _ => ⟨BitVec.not_lt.mp hmin, Nat.not_lt.mp hmax⟩) (phaseOf_receiving _ _).1 ?_)
      refine (headerHolds_iff_of_short (by simp)).mpr ⟨hsync, htv, ?_, hrest⟩
      exact (congrArg (· ||| b.setWidth 16) hflen).trans (append_or_low_byte b2 b)

theorem capture_headerHolds {s : State} {d : List Byte} (b : Byte) (h : s.HeaderHolds d)
    (hlen : d.length = s.idx.toNat) (h4 : 4 ≤ s.idx.toNat) :
    State.HeaderHolds { s with hdr := s.capture b s.idx } (d ++ [b]) := by
  obtain ⟨hsync, htv, hflen, hidc, hsoc, hfrac, hcells⟩ := h
  have hget (k : Nat) (hk : k < 4) : (d ++ [b]).getD k 0 = d.getD k 0 := List.getD_append _ _ _ _ (by omega)
  refine ⟨?_, ?_, ?_, ?_, ?_, ?_, ?_⟩
  · rw [hget 0 (by omega), ← hsync]
    exact capture_sync s b s.idx
  · rw [hget 1 (by omega), ← htv]
    exact capture_tv s b s.idx
  · rw [hget 2 (by omega), hget 3 (by omega), ← hflen]
    exact capture_flen s b s.idx
  · rw [bigEndian_slice_concat, ← hidc, hlen]
    exact (capture_idc s b s.idx).trans (if_congr (by bv_omega) rfl rfl)
  · rw [bigEndian_slice_concat, ← hsoc, hlen]
    exact (capture_soc s b s.idx).trans (if_congr (by bv_omega) rfl rfl)
  · rw [bigEndian_slice_concat, hlen]
    change _ = if 10 ≤ s.idx.toNat ∧ s.idx.toNat < s.headerLen.toNat then
      bigEndian 32 (slice d 10 s.headerLen.toNat) <<< 8 ||| b.setWidth 32 else bigEndian 32 (slice d 10 s.headerLen.toNat)
    rw [← hfrac]
    exact (capture_frac s b s.idx).trans (if_congr (by bv_omega) rfl rfl)
  · have hoff : s.cellOff.toNat < 256 := cellOff_toNat s ▸ s.ctx.off.isLt
    refine (capture_cells s b s.idx).trans ?_
    change _ = if s.hasCells then bigEndian 16 (slice (d ++ [b]) s.cellOff.toNat (s.cellOff.toNat + 2)) else 0
    by_cases hc : s.hasCells
    · rw [if_pos hc] at hcells ⊢
      rw [bigEndian_slice_concat, ← hcells, hlen]
      exact if_congr (by simp only [hc, true_and]; bv_omega) rfl rfl
    · rw [if_neg hc] at hcells ⊢
      rw [if_neg (fun h => hc h.1), hcells]

theorem bodyByte_holds {s : State} {d : List Byte} (b : Byte) (h : s.Holds d) (h4 : 4 ≤ s.idx.toNat)
    (hlt : s.idx < s.hdr.flen - 1) : (bodyByte s b).st.Holds (d ++ [b]) where
  length_eq := by
    rw [List.length_append, List.length_singleton, h.length_eq]
    change s.idx.toNat + 1 = (s.idx + 1).toNat
    bv_omega
  buffered := h.buffered_concat b
  header := capture_headerHolds b h.header h.length_eq h4
  accumulators := by
    have hflen : (bodyByte s b).st.cksumStart = s.cksumStart := congrArg (· - 2) (capture_flen s b s.idx)
    have hacc := accumulatorsHold_iff.mp h.accumulators
    have hlen := h.length_eq
    rw [accumulatorsHold_iff, List.length_append, List.length_singleton]
    change (if s.idx < s.cksumStart then s.acc.next b s.idx else s.acc) = Accumulators.ofBytes s.cfg _
    by_cases hj : s.idx < s.cksumStart
    · have hj' : s.idx.toNat < s.cksumStart.toNat := hj
      rw [if_pos hj, accumulated_of_le (.inr (by rw [hflen]; omega)), List.take_of_length_le (by simp), hacc,
        accumulated_of_le (.inr (by omega)), List.take_length, next_ofBytes _ _ hlen]
    · have hj' : s.cksumStart.toNat ≤ s.idx.toNat := BitVec.not_lt.mp hj
      rw [if_neg hj, accumulated_of_ge (by omega) (by rw [hflen]; omega), hflen, List.take_append_of_le_length (by omega),
        hacc, accumulated_of_ge (by omega) (by omega)]
  first_checksum_byte := by
    have hflen : (bodyByte s b).st.cksumStart = s.cksumStart := congrArg (· - 2) (capture_flen s b s.idx)
    have hlen := h.length_eq
    rw [List.length_append, List.length_singleton, hflen]
    intro _ hcs
    change (if s.idx = s.cksumStart then b else s.ckr0) = _
    by_cases hj : s.idx = s.cksumStart
    · rw [if_pos hj, List.getD_append_right _ _ _ _ (by rw [hlen, hj]), ← hj, hlen, Nat.sub_self]
      rfl
    · have hlt' : s.cksumStart.toNat < d.length := by bv_omega
      rw [if_neg hj, List.getD_append _ _ _ _ hlt', h.first_checksum_byte (by omega) hlt']
  accepted hc := absurd hc (phaseOf_receiving _ _).1

/-- The frame's last byte belongs to no header field. -/
theorem headerHolds_lastByte {s : State} {d : List Byte} (b : Byte) (h : s.HeaderHolds d) (hok : s.LengthOk)
    (hlen : d.length + 1 = s.hdr.flen.toNat) : s.HeaderHolds (d ++ [b]) := by
  obtain ⟨hcs, hbody⟩ := hok.bodyStart_le_cksumStart
  have hH := headerLen_toNat s
  have hHB := headerLen_le_bodyStart s
  obtain ⟨hsync, htv, hflen, hidc, hsoc, hfrac, hcells⟩ := h
  have hget (k : Nat) (hk : k < 4) : (d ++ [b]).getD k 0 = d.getD k 0 := List.getD_append _ _ _ _ (by omega)
  have hslice (lo hi : Nat) (hhi : hi ≤ s.bodyStart.toNat) : slice (d ++ [b]) lo hi = slice d lo hi :=
    slice_concat_outside b (.inr (by omega))
  refine ⟨hsync.trans (hget 0 (by omega)).symm, htv.trans (hget 1 (by omega)).symm, ?_, ?_, ?_, ?_, ?_⟩
  · rw [hget 2 (by omega), hget 3 (by omega), hflen]
  · rw [hslice _ _ (by omega), hidc]
  · rw [hslice _ _ (by omega), hsoc]
  · rw [hslice _ _ hHB, hfrac]
  · by_cases hc : s.hasCells
    · have hBS := bodyStart_toNat s
      rw [if_pos hc] at hBS hcells ⊢
      rw [hslice _ _ hBS.ge, hcells]
    · rw [if_neg hc] at hcells ⊢
      exact hcells

theorem receivedCk_eq_trailer {s : State} {d : List Byte} (b : Byte) (hlen : d.length = s.cksumStart.toNat + 1)
    (hckr0 : s.ckr0 = d.getD s.cksumStart.toNat 0) : s.receivedCk b = s.trailer (d ++ [b]) := by
  have hhi : (d ++ [b]).getD s.cksumStart.toNat 0 = s.ckr0 := by
    rw [List.getD_append _ _ _ _ (by omega), hckr0]
  have hlo : (d ++ [b]).getD (s.cksumStart.toNat + 1) 0 = b := by
    rw [← hlen, List.getD_append_right _ _ _ _ le_rfl, Nat.sub_self]
    rfl
  simp only [State.trailer, State.receivedCk, hhi, hlo]

theorem lastByte_holds {s : State} {d : List Byte} (b : Byte) (h : s.Holds d) (h4 : 4 ≤ s.idx.toNat) (hok : s.LengthOk)
    (hlast : s.idx.toNat + 1 = s.hdr.flen.toNat) :
    (lastByte s b).st.ph = .faulted ∨ (lastByte s b).st.Holds (d ++ [b]) := by
  have hlen := h.length_eq
  have hcs := hok.bodyStart_le_cksumStart.1
  have hacc : s.acc = Accumulators.ofBytes s.cfg ((d ++ [b]).take s.cksumStart.toNat) := by
    rw [List.take_append_of_le_length (by omega), accumulatorsHold_iff.mp h.accumulators,
      accumulated_of_ge (by omega) (by omega)]
  have haccs : s.AccumulatorsHold (d ++ [b]) :=
    accumulatorsHold_iff.mpr (by rwa [accumulated_of_ge (by simp; omega) (by simp; omega)])
  have hhdr : s.HeaderHolds (d ++ [b]) := headerHolds_lastByte b h.header hok (by omega)
  have hckr0 := h.first_checksum_byte (by omega) (by omega)
  unfold lastByte
  dsimp only
  split
  next hmatch =>
    refine .inr ⟨?_, h.buffered_concat b, hhdr, haccs, ?_, ?_⟩
    · rw [List.length_append, List.length_singleton, hlen, hlast]
    · intro _ _
      change s.ckr0 = (d ++ [b]).getD s.cksumStart.toNat 0
      rw [List.getD_append _ _ _ _ (by omega), hckr0]
    · exact fun _ => ⟨computedCk_ofBytes hacc, receivedCk_eq_trailer b (by omega) hckr0, hmatch⟩
  next => exact .inl rfl

/-- A byte accepted into a frame in progress is its next byte, unless it raises a fault. -/
theorem frameByte_holds {s : State} {d : List Byte} (b : Byte) (h : s.Holds d) (h0 : s.idx ≠ 0)
    (hpos : 4 ≤ s.idx.toNat → s.LengthOk ∧ s.idx < s.hdr.flen) :
    (frameByte s b).st.ph = .faulted ∨ (frameByte s b).st.Holds (d ++ [b]) := by
  unfold frameByte
  rw [if_neg h0]
  split
  next h1 => exact byte1_holds b h h1
  split
  next h2 => exact .inr (byte2_holds b h h2)
  split
  next h3 => exact byte3_holds b h h3
  have h4 : 4 ≤ s.idx.toNat := by bv_omega
  obtain ⟨hok, hlt⟩ := hpos h4
  split
  next hbody => exact .inr (bodyByte_holds b h h4 hbody)
  next hlast => exact lastByte_holds b h h4 hok (by bv_omega)

end Sys2Proof.Machine

end

section
/-! PROOFS. The frame invariant and the stream part of a step (rules R171, R174). -/

namespace Sys2Proof.Machine

/-! ### Which bytes are taken into a frame (rules R200, R174) -/

theorem isCandidate_iff (s : State) (b : Byte) : s.isCandidate b = true ↔ s.Candidate b := by
  simp only [State.isCandidate, State.Candidate, List.any_eq_true, Vector.mem_toList_iff, Vector.mem_iff_getElem,
    Bool.and_eq_true, beq_iff_eq]
  constructor
  · rintro ⟨_, ⟨i, hi, rfl⟩, he⟩
    exact ⟨⟨i, hi⟩, he⟩
  · rintro ⟨i, he⟩
    exact ⟨s.lut[i], ⟨i, i.isLt, rfl⟩, he⟩

theorem acceptsIntoFrame_eq_false_iff (s : State) (b : Byte) :
    s.acceptsIntoFrame b = false ↔ s.idx = 0 ∧ ¬ s.Candidate b := by
  rw [← isCandidate_iff, State.acceptsIntoFrame]
  simp

/-! ### The states of one frame -/

/-- The two states agree on everything the frame invariant speaks of. -/
structure State.SameHeld (s t : State) : Prop where
  ph : t.ph = s.ph
  idx : t.idx = s.idx
  hdr : t.hdr = s.hdr
  ctx : t.ctx = s.ctx
  acc : t.acc = s.acc
  ckr0 : t.ckr0 = s.ckr0
  ckComp : t.ckComp = s.ckComp
  ckRecv : t.ckRecv = s.ckRecv
  fbuf : t.fbuf = s.fbuf
  cfg : t.cfg = s.cfg

theorem State.Holds.congr {s t : State} {d : List Byte} (e : s.SameHeld t) (h : s.Holds d) : t.Holds d := by
  have hH : t.headerLen = s.headerLen := by simp only [State.headerLen, State.fracWidth, e.ctx]
  have hoff : t.cellOff = s.cellOff := by simp only [State.cellOff, e.ctx]
  have hcells : t.hasCells = s.hasCells := by simp only [State.hasCells, State.isCfg, hH, hoff, e.ctx]
  have hcs : t.cksumStart = s.cksumStart := by simp only [State.cksumStart, e.hdr]
  have hhdr := h.header
  have haccs := accumulatorsHold_iff.mp h.accumulators
  refine ⟨?_, ?_, ?_, accumulatorsHold_iff.mpr ?_, ?_, ?_⟩
  · rw [e.idx, h.length_eq]
  · rw [e.fbuf]
    exact h.buffered
  · rwa [State.HeaderHolds, hH, hoff, hcells, e.hdr]
  · rwa [State.accumulated, hcs, e.acc, e.cfg]
  · rw [hcs, e.ckr0]
    exact h.first_checksum_byte
  · rw [State.trailer, hcs, e.ph, e.cfg, e.ctx, e.ckComp, e.ckRecv]
    exact h.accepted

theorem State.FrameInv.congr {s t : State} (e : s.SameHeld t) (h : s.FrameInv) : t.FrameInv := by
  rw [State.FrameInv, e.ph, e.idx]
  exact fun hframe => (h hframe).imp fun _ => State.Holds.congr e

/-- While hunting and in the Faulted step there is no frame to hold. -/
theorem frameInv_of_no_frame {s : State} (hc : s.ph ≠ .complete) (h : s.idx = 0 ∨ s.ph = .faulted) : s.FrameInv := by
  rintro (⟨hr, h0⟩ | hc')
  · exact (h.elim h0 hr.2).elim
  · exact absurd hc' hc

theorem frameInv_of_holds {s : State} {d : List Byte} (h : s.Holds d) : s.FrameInv := fun _ => ⟨d, h⟩

/-! ### The stream part -/

theorem nextByte_held {s s' : State} {b : Byte} (h : s.nextByte = some (b, s')) : s.SameHeld s' := by
  rcases nextByte_cases h with ⟨q, -, -, -, rfl⟩ | ⟨-, -, -, rfl⟩ <;>
    exact ⟨rfl, rfl, rfl, rfl, rfl, rfl, rfl, rfl, rfl, rfl⟩

/-- A byte is processed only while a frame is hunted for or received. -/
theorem nextByte_receiving {s s' : State} {b : Byte} (h : s.nextByte = some (b, s')) : s.ph.receiving := by
  rcases nextByte_cases h with ⟨q, -, -, hph, -⟩ | ⟨-, hready, -, -⟩
  · rw [hph]
    exact ⟨nofun, nofun⟩
  · simp only [State.inReady, Bool.and_eq_true, bne_iff_ne] at hready
    exact ⟨hready.1.2, hready.2⟩

/-- From index 4 on the byte processed is one of the declared length. -/
theorem nextByte_position {s s' : State} {b : Byte} (hinv : s.Inv) (h : s.nextByte = some (b, s')) :
    4 ≤ s'.idx.toNat → s'.LengthOk ∧ s'.idx < s'.hdr.flen := by
  have hrecv := nextByte_receiving h
  obtain ⟨-, hpos, -, -⟩ := hinv.position_ok
  rcases nextByte_cases h with ⟨q, -, -, -, rfl⟩ | ⟨-, -, -, rfl⟩ <;>
    exact fun h4 => ⟨(hpos hrecv h4).1, (hpos hrecv h4).2.1⟩

theorem huntDiscard_idx (s : State) (b : Byte) : (huntDiscard s b).st.idx = s.idx := by
  unfold huntDiscard
  dsimp only
  split <;> rfl

theorem huntDiscard_ph (s : State) (b : Byte) : (huntDiscard s b).st.ph = if s.locked then .faulted else s.ph := by
  unfold huntDiscard
  dsimp only
  split <;> rfl

/-- The stream part of a step keeps the frame invariant. -/
theorem streamPart_keeps_frameInv {s : State} {r : StreamResult} (hinv : s.Inv) (h : s.FrameInv)
    (hr : streamPart s = .ok r) : r.st.FrameInv := by
  rcases streamPart_cases hr with ⟨-, rfl⟩ | ⟨-, -, rfl⟩ | ⟨b, s', -, hn, ha, rfl⟩ | ⟨b, s', -, hn, -, -, rfl⟩
  · exact frameInv_of_no_frame nofun (.inl rfl)
  · exact h
  · have hidx := ((acceptsIntoFrame_eq_false_iff s' b).mp ha).1
    have hrecv := nextByte_receiving hn
    refine frameInv_of_no_frame ?_ (.inl ((huntDiscard_idx s' b).trans hidx))
    rw [huntDiscard_ph, (nextByte_held hn).ph]
    split
    next => exact nofun
    next => exact hrecv.1
  · by_cases h0 : s'.idx = 0
    · rw [frameByte, if_pos h0]
      exact frameInv_of_holds (syncAccept_holds b h0)
    · have hrecv : s'.ph.receiving := (nextByte_held hn).ph ▸ nextByte_receiving hn
      obtain ⟨d, hd⟩ := h.congr (nextByte_held hn) (.inl ⟨hrecv, h0⟩)
      rcases frameByte_holds b hd h0 (nextByte_position hinv hn) with hf | hheld
      · exact frameInv_of_no_frame (by rw [hf]; exact nofun) (.inr hf)
      · exact frameInv_of_holds hheld

end Sys2Proof.Machine

end

section
/-! PROOFS. The frame invariant and the bus part; every step keeps the frame invariant. -/

namespace Sys2Proof.Machine

/-! ### The bus part (rules R221, R229) -/

theorem singleRegister_cmd {w : Nat} (h : singleRegister w = .cmd) : w = 0x014 := by
  unfold singleRegister at h
  split at h
  case h_6 => rfl
  all_goals cases h

/-- No address but CMD's names CMD. -/
theorem addressesCmd_of_hostWord {a : Addr} (h : hostWord a = .cmd) : addressesCmd a = true := by
  have hw : (a &&& 0x1FFFC).toNat = 0x014 := by
    unfold hostWord at h
    dsimp only at h
    split at h
    next => cases h
    split at h
    next => cases h
    split at h
    next =>
      unfold vdescRegister at h
      split at h
      next => cases h
      split at h <;> cases h
    next => exact singleRegister_cmd h
  rw [addressesCmd, beq_iff_eq]
  exact BitVec.eq_of_toNat_eq hw

/-- A word is told by its MBZ half, its ARG byte and its OP byte (rule R93). -/
theorem word_of_fields {d : Word} {op : Byte} (hmbz : d.extractLsb' 16 16 = 0) (harg : d.extractLsb' 8 8 = 0)
    (hop : d.extractLsb' 0 8 = op) : d = op.setWidth 32 := by
  have hmbz' : d.toNat >>> 16 % 2 ^ 16 = 0 := congrArg BitVec.toNat hmbz
  have harg' : d.toNat >>> 8 % 2 ^ 8 = 0 := congrArg BitVec.toNat harg
  have hop' : d.toNat >>> 0 % 2 ^ 8 = op.toNat := congrArg BitVec.toNat hop
  simp only [Nat.shiftRight_eq_div_pow] at hmbz' harg' hop'
  apply BitVec.eq_of_toNat_eq
  rw [BitVec.toNat_setWidth]
  omega

/-- Everything a word written to CMD can do: nothing but BUS_ERR, or the part of one command. Only the word 3 clears the
counters. -/
inductive CommandResult (d : Word) (inc : List Counter) (s : State) : State × Bool → Prop where
  | refused : CommandResult d inc s (refuseWrite s)
  | nop : CommandResult d inc s (nopPart inc s)
  | abort : CommandResult d inc s (abortPart inc s)
  | release : CommandResult d inc s (releasePart inc s)
  | clrCounters (hd : d = 0x00000003) : CommandResult d inc s (clrCountersPart inc s)
  | ckInit (c : BitVec 2) : CommandResult d inc s (ckInitPart c inc s)
  | ckByte (b : Byte) : CommandResult d inc s (ckBytePart b inc s)

theorem commandPart_result (d : Word) (inc : List Counter) (s : State) :
    CommandResult d inc s (commandPart d inc s) := by
  unfold commandPart
  dsimp only
  split
  next => exact .refused
  next hmbz =>
  split
  next => split <;> constructor
  split
  next => split <;> constructor
  split
  next => split <;> constructor
  split
  next hop =>
    split
    next => exact .refused
    next harg => exact .clrCounters (word_of_fields (not_not.mp hmbz) (not_not.mp harg) hop)
  split
  next => split <;> constructor
  split <;> constructor

/-- The two states agree on where the block stands in the stream, and on the counters. -/
structure State.SameProgress (s t : State) : Prop where
  ph : t.ph = s.ph
  idx : t.idx = s.idx
  locked : t.locked = s.locked
  cnt : t.cnt = s.cnt

/-- What the bus part of the operation `i` does to the frame in progress and to the counters. -/
inductive BusProgress (i : Instr) (s t : State) : Prop where
  | kept (e : s.SameProgress t)
  | frameEnded (ph : t.ph = .awaitingHeader) (idx : t.idx = 0) (locked : t.locked = s.locked ∨ t.locked = false)
      (cnt : t.cnt = s.cnt)
  | countersCleared (clr : WritesCmd i 0x00000003) (ph : t.ph = s.ph) (idx : t.idx = s.idx)
      (locked : t.locked = s.locked)

theorem releasePart_progress (i : Instr) (inc : List Counter) (s : State) : BusProgress i s (releasePart inc s).1 := by
  unfold releasePart
  split
  next => exact .frameEnded rfl rfl (.inl rfl) rfl
  next => exact .kept ⟨rfl, rfl, rfl, rfl⟩

theorem ckInitPart_progress (c : BitVec 2) (inc : List Counter) (s : State) :
    s.SameProgress (ckInitPart c inc s).1 := by
  unfold ckInitPart
  split <;> exact ⟨rfl, rfl, rfl, rfl⟩

theorem commandPart_progress {i : Instr} {d : Word} (hi : d = 0x00000003 → WritesCmd i 0x00000003)
    (inc : List Counter) (s : State) : BusProgress i s (commandPart d inc s).1 := by
  have h := commandPart_result d inc s
  generalize commandPart d inc s = r at h ⊢
  cases h with
  | abort => exact .frameEnded rfl rfl (.inr rfl) rfl
  | release => exact releasePart_progress i inc s
  | clrCounters hd => exact .countersCleared (hi hd) rfl rfl rfl
  | ckInit c => exact .kept (ckInitPart_progress c inc s)
  | _ => exact .kept ⟨rfl, rfl, rfl, rfl⟩

theorem lutWrite_progress (s : State) (k : Fin 8) (d : Word) : s.SameProgress (lutWrite s k d).1 := by
  unfold lutWrite
  split <;> exact ⟨rfl, rfl, rfl, rfl⟩

theorem vcfgWrite_progress (s : State) (v : Fin 5) (d : Word) : s.SameProgress (vcfgWrite s v d).1 := by
  unfold vcfgWrite
  split <;> exact ⟨rfl, rfl, rfl, rfl⟩

theorem vtmapWrite_progress (s : State) (v : Fin 5) (d : Word) : s.SameProgress (vtmapWrite s v d).1 := by
  unfold vtmapWrite
  split <;> exact ⟨rfl, rfl, rfl, rfl⟩

theorem writePart_progress (a : Addr) (d : Word) (inc : List Counter) (s : State) :
    BusProgress (.csrWrite a d) s (writePart a d inc s).1 := by
  unfold writePart
  split
  case h_4 hcmd =>
    exact commandPart_progress (fun hd => .inl ⟨a, addressesCmd_of_hostWord hcmd, by rw [hd]⟩) inc s
  case h_5 k _ => exact .kept (lutWrite_progress s k d)
  case h_6 v _ => exact .kept (vcfgWrite_progress s v d)
  case h_7 v _ => exact .kept (vtmapWrite_progress s v d)
  all_goals exact .kept ⟨rfl, rfl, rfl, rfl⟩

theorem busOf_progress (i : Instr) (inc : List Counter) (s : State) : BusProgress i s ((busOf i).2 inc s).1 := by
  cases i with
  | csrWrite a d => exact writePart_progress a d inc s
  | abort => exact .frameEnded rfl rfl (.inr rfl) rfl
  | release => exact releasePart_progress .release inc s
  | clrCounters => exact .countersCleared (.inr (by decide)) rfl rfl rfl
  | ckInit c => exact .kept (ckInitPart_progress c inc s)
  | _ => exact .kept ⟨rfl, rfl, rfl, rfl⟩

/-! ### Every step keeps the frame invariant -/

/-- The bus part keeps the frame, or ends it. -/
theorem busOf_keeps_frameInv (i : Instr) (inc : List Counter) {s : State} (h : s.FrameInv) :
    ((busOf i).2 inc s).1.FrameInv := by
  have f := busOf_frame i inc s
  have hkept (hph : ((busOf i).2 inc s).1.ph = s.ph) (hidx : ((busOf i).2 inc s).1.idx = s.idx) :
      ((busOf i).2 inc s).1.FrameInv :=
    h.congr ⟨hph, hidx, f.hdr, f.ctx, f.acc, f.ckr0, f.ckComp, f.ckRecv, f.fbuf, f.cfg⟩
  cases busOf_progress i inc s with
  | kept e => exact hkept e.ph e.idx
  | frameEnded ph idx _ _ => exact frameInv_of_no_frame (by rw [ph]; exact nofun) (.inl idx)
  | countersCleared _ ph idx _ => exact hkept ph idx

theorem finish_keeps_frameInv {s : State} (h : s.FrameInv) (ev : Option StreamEvent) (e : Bool) (o : Outputs) :
    (s.finish ev e o).FrameInv := h.congr (s := s) ⟨rfl, rfl, rfl, rfl, rfl, rfl, rfl, rfl, rfl, rfl⟩

/-- Another byte offered and other inputs to come: nothing of the block changes. -/
theorem State.Inv.withInputs {s : State} (h : s.Inv) (o : Option Byte) (ls : List Line) :
    State.Inv { s with offer := o, script := ls } :=
  ⟨h.cfg_wf, h.fbuf_wf, h.fbuf_below, h.no_structural_mismatch, h.replay_ok, h.position_ok⟩

theorem sameHeld_withInputs (s : State) (o : Option Byte) (ls : List Line) :
    s.SameHeld { s with offer := o, script := ls } := ⟨rfl, rfl, rfl, rfl, rfl, rfl, rfl, rfl, rfl, rfl⟩

/-- The ports of an operation's step, as an offered byte. -/
theorem presenting_eq (s : State) (i : Instr) : ∃ o, s.presenting i = { s with offer := o, script := s.script } := by
  cases i with
  | streamByte b => exact ⟨some b, rfl⟩
  | _ => exact ⟨s.offer, rfl⟩

/-- Every operation keeps the frame invariant. -/
theorem exec_keeps_frameInv {i : Instr} {s t : State} (hinv : s.Inv) (h : s.FrameInv) (he : exec i s = .next t) :
    t.FrameInv := by
  obtain ⟨r, hr, rfl⟩ := exec_next he
  obtain ⟨o, ho⟩ := presenting_eq s i
  have hstream : r.st.FrameInv :=
    streamPart_keeps_frameInv (hinv.withInputs o s.script) (h.congr (sameHeld_withInputs s o s.script)) (ho ▸ hr)
  exact finish_keeps_frameInv (busOf_keeps_frameInv i r.inc hstream) _ _ _

theorem settleOutcome_next {hold : Bool} {o : StepOutcome} {t : State} (h : settleOutcome hold o = .next t) :
    ∃ u, o = .next u ∧ t = u.settleOffer hold := by
  cases o with
  | next u => exact ⟨u, rfl, (Host.Outcome.next.inj h).symm⟩
  | fault f => cases h
  | refused r => cases h

/-- Everything a step that answers can do: a reset, or an operation on other inputs, with the offer settled at the end. -/
theorem step_next {s t : State} (h : step s = .next t) :
    ∃ u hold, t = u.settleOffer hold ∧
      ((∃ s', u = resetEdge s') ∨ ∃ i o ls, exec i { s with offer := o, script := ls } = .next u) := by
  unfold step at h
  split at h
  next b _ => exact ⟨t, true, rfl, .inr ⟨_, s.offer, s.script, h⟩⟩
  split at h
  next => exact ⟨t, true, rfl, .inr ⟨.nop, s.offer, s.script, h⟩⟩
  next l rest _ =>
    unfold stepLine at h
    split at h
    next =>
      obtain ⟨u, hu, rfl⟩ := settleOutcome_next h
      exact ⟨u, l.hold, rfl, .inl ⟨_, (Host.Outcome.next.inj hu).symm⟩⟩
    split at h
    next p _ =>
      obtain ⟨u, hu, rfl⟩ := settleOutcome_next h
      exact ⟨u, l.hold, rfl, .inr ⟨_, l.byte, rest, hu⟩⟩
    next =>
      obtain ⟨u, hu, rfl⟩ := settleOutcome_next h
      exact ⟨u, l.hold, rfl, .inr ⟨.nop, l.byte, rest, hu⟩⟩

theorem settleOffer_eq (s : State) (hold : Bool) :
    ∃ o, s.settleOffer hold = { s with offer := o, script := s.script } := by
  cases hold with
  | true => exact ⟨s.offer, rfl⟩
  | false => exact ⟨none, rfl⟩

/-- Settles O56. A reset leaves no frame; an operation keeps the frame by its stream part (each accepted byte is the
frame's next byte) and by its bus part (which keeps the frame or ends it). -/
theorem stepKeepsTheFrameInvariant : Obligations.StepKeepsTheFrameInvariant := by
  unfold Obligations.StepKeepsTheFrameInvariant
  intro s t hinv h hstep
  obtain ⟨u, hold, rfl, hu⟩ := step_next hstep
  have hframe : u.FrameInv := by
    rcases hu with ⟨s', rfl⟩ | ⟨i, o, ls, he⟩
    · exact frameInv_of_no_frame nofun (.inl rfl)
    · exact exec_keeps_frameInv (hinv.withInputs o ls) (h.congr (sameHeld_withInputs s o ls)) he
  obtain ⟨o, ho⟩ := settleOffer_eq u hold
  rw [ho]
  exact hframe.congr (sameHeld_withInputs u o u.script)

end Sys2Proof.Machine

end

section
/-! PROOFS. The dispatch table is changed by a CSR_WRITE with EN = 0 alone (rules R47, R208). -/

namespace Sys2Proof.Machine

/-! ### The dispatch table (rules R47, R208) -/

/-- The two states agree on the LUT, the descriptors and the type maps. -/
structure State.SameTables (s t : State) : Prop where
  lut : t.lut = s.lut
  vcfg : t.vcfg = s.vcfg
  vtmap : t.vtmap = s.vtmap

theorem releasePart_tables (inc : List Counter) (s : State) : s.SameTables (releasePart inc s).1 := by
  unfold releasePart
  split <;> exact ⟨rfl, rfl, rfl⟩

theorem ckInitPart_tables (c : BitVec 2) (inc : List Counter) (s : State) : s.SameTables (ckInitPart c inc s).1 := by
  unfold ckInitPart
  split <;> exact ⟨rfl, rfl, rfl⟩

theorem commandPart_tables (d : Word) (inc : List Counter) (s : State) : s.SameTables (commandPart d inc s).1 := by
  have h := commandPart_result d inc s
  generalize commandPart d inc s = r at h ⊢
  cases h with
  | release => exact releasePart_tables inc s
  | ckInit c => exact ckInitPart_tables c inc s
  | _ => exact ⟨rfl, rfl, rfl⟩

/-- The tables are locked while EN = 1. -/
theorem writePart_tables_of_en {s : State} (hen : s.en = true) (a : Addr) (d : Word) (inc : List Counter) :
    s.SameTables (writePart a d inc s).1 := by
  unfold writePart
  split
  case h_4 => exact commandPart_tables d inc s
  case h_5 => rw [lutWrite, if_pos hen]; exact ⟨rfl, rfl, rfl⟩
  case h_6 => rw [vcfgWrite, if_pos hen]; exact ⟨rfl, rfl, rfl⟩
  case h_7 => rw [vtmapWrite, if_pos hen]; exact ⟨rfl, rfl, rfl⟩
  all_goals exact ⟨rfl, rfl, rfl⟩

theorem busOf_tables {i : Instr} {s : State} (h : s.en = true ∨ ∀ a d, i ≠ .csrWrite a d) (inc : List Counter) :
    s.SameTables ((busOf i).2 inc s).1 := by
  cases i with
  | csrWrite a d => exact writePart_tables_of_en (h.resolve_right fun hne => hne a d rfl) a d inc
  | release => exact releasePart_tables inc s
  | ckInit c => exact ckInitPart_tables c inc s
  | _ => exact ⟨rfl, rfl, rfl⟩

theorem presenting_settings (s : State) (i : Instr) : s.SameSettings (s.presenting i) := by
  cases i <;> exact ⟨rfl, rfl, rfl, rfl, rfl, rfl, rfl, rfl, rfl, rfl, rfl, rfl⟩

/-- Settles O43. No stream part touches the tables, and a bus part does only in a CSR_WRITE with EN = 0. -/
theorem dispatchTableIsReadOnlyWhileEnabled : Obligations.DispatchTableIsReadOnlyWhileEnabled := by
  unfold Obligations.DispatchTableIsReadOnlyWhileEnabled
  intro i s t he h
  obtain ⟨r, hr, rfl⟩ := exec_next he
  have hset : s.SameSettings r.st := (presenting_settings s i).trans (streamPart_settings hr)
  have hbus := busOf_tables (s := r.st) (i := i) (by rwa [hset.en]) r.inc
  exact ⟨hbus.lut.trans hset.lut, hbus.vcfg.trans hset.vcfg, hbus.vtmap.trans hset.vtmap⟩


end Sys2Proof.Machine

end

section
/-! PROOFS. What a frame byte raises, and what the stream part counts (rules R39, R252, R262, R264). -/

namespace Sys2Proof.Machine

/-! ### What a frame byte raises (rules R252, R262) -/

/-- The rows of rule R252 for a byte accepted into a frame: which fault it can raise, and where. -/
inductive State.FaultRow (s : State) : ErrorKind → ErrReason → Prop where
  | unknownSignature (idx : s.idx = 1) : s.FaultRow .unknownProtocol .unknownSignature
  | badVersion (idx : s.idx = 1) : s.FaultRow .malformedHeader .badVersion
  | lengthTooSmall (idx : s.idx = 3) : s.FaultRow .malformedHeader .lengthTooSmall
  | lengthTooLarge (idx : s.idx = 3) : s.FaultRow .malformedHeader .lengthTooLarge
  | checksumMismatch (idx : 4 ≤ s.idx.toNat) (last : ¬ s.idx < s.hdr.flen - 1) :
    s.FaultRow .checksumMismatch .checksumMismatch

/-- What a byte accepted into a frame raises: nothing, FRAME_OK, or the fault of a row at the byte's frame index. -/
inductive FrameByteRaises (s : State) (b : Byte) (r : StreamResult) : Prop where
  | quiet (ev : r.ev = none) (inc : r.inc = []) (cnt : r.st.cnt = s.cnt) (err : r.st.err = s.err)
  | frameOk (ev : r.ev = some .frameOk) (inc : r.inc = [.framesOk]) (cnt : r.st.cnt = s.cnt.bump .framesOk)
      (err : r.st.err = s.err)
  | fault {kind : ErrorKind} {reason : ErrReason} (row : s.FaultRow kind reason) (before : State)
      (replay : List Byte) (raised : r = raiseFault before kind reason b s.idx replay) (cnt : before.cnt = s.cnt)

theorem byte1_raises {s : State} (b : Byte) (hidx : s.idx = 1) : FrameByteRaises s b (byte1 s b) := by
  unfold byte1
  dsimp only
  rw [← hidx]
  split
  next => exact .fault (.unknownSignature hidx) _ _ rfl rfl
  split
  next => exact .quiet rfl rfl rfl rfl
  next => exact .fault (.badVersion hidx) _ _ rfl rfl

theorem byte3_raises {s : State} (b : Byte) (hidx : s.idx = 3) : FrameByteRaises s b (byte3 s b) := by
  unfold byte3
  dsimp only
  rw [← hidx]
  split
  next => exact .fault (.lengthTooSmall hidx) _ _ rfl rfl
  split
  next => exact .fault (.lengthTooLarge hidx) _ _ rfl rfl
  next => exact .quiet rfl rfl rfl rfl

theorem lastByte_raises {s : State} (b : Byte) (h4 : 4 ≤ s.idx.toNat) (hlast : ¬ s.idx < s.hdr.flen - 1) :
    FrameByteRaises s b (lastByte s b) := by
  unfold lastByte
  dsimp only
  split
  next => exact .frameOk rfl rfl rfl rfl
  next => exact .fault (.checksumMismatch h4 hlast) _ _ rfl rfl

theorem frameByte_raises (s : State) (b : Byte) : FrameByteRaises s b (frameByte s b) := by
  unfold frameByte
  split
  next => exact .quiet rfl rfl rfl rfl
  split
  next h1 => exact byte1_raises b h1
  split
  next => exact .quiet rfl rfl rfl rfl
  split
  next h3 => exact byte3_raises b h3
  split
  next => exact .quiet rfl rfl rfl rfl
  next hlast => exact lastByte_raises b (by bv_omega) hlast

/-! ### What the stream part counts (rules R39, R264) -/

/-- The counter of a stream event (rule R264). -/
def StreamEvent.counter : StreamEvent → Counter
  | .frameOk => .framesOk
  | .checksumMismatch => .cksumErr
  | .malformedHeader => .malformed
  | .unknownProtocol => .unknown

@[simp] theorem errorKind_event_counter (k : ErrorKind) : k.event.counter = k.counter := by
  cases k <;> rfl

/-- The part counts the counters it reports in `inc`, and these are `first` and the counter of its event. -/
structure StreamResult.Counts (s : State) (r : StreamResult) (first : List Counter) : Prop where
  cnt : r.st.cnt = r.inc.foldl Counters.bump s.cnt
  inc : r.inc = first ++ r.ev.toList.map StreamEvent.counter

theorem frameByte_counts (s : State) (b : Byte) : (frameByte s b).Counts s [] := by
  cases frameByte_raises s b with
  | quiet ev inc cnt _ => exact ⟨by rw [inc, cnt]; rfl, by rw [inc, ev]; rfl⟩
  | frameOk ev inc cnt _ => exact ⟨by rw [inc, cnt]; rfl, by rw [inc, ev]; rfl⟩
  | fault row before replay raised cnt =>
    rw [raised]
    exact ⟨by rw [raiseFault_st_cnt, cnt]; rfl, by simp⟩

theorem huntDiscard_counts (s : State) (b : Byte) : (huntDiscard s b).Counts s [.skipped] := by
  unfold huntDiscard
  dsimp only
  split <;> exact ⟨rfl, rfl⟩

@[simp] theorem presenting_ph (s : State) (i : Instr) : (s.presenting i).ph = s.ph := by cases i <;> rfl

@[simp] theorem presenting_idx (s : State) (i : Instr) : (s.presenting i).idx = s.idx := by cases i <;> rfl

@[simp] theorem presenting_cnt (s : State) (i : Instr) : (s.presenting i).cnt = s.cnt := by cases i <;> rfl

@[simp] theorem presenting_hdr (s : State) (i : Instr) : (s.presenting i).hdr = s.hdr := by cases i <;> rfl

@[simp] theorem presenting_err (s : State) (i : Instr) : (s.presenting i).err = s.err := by cases i <;> rfl

@[simp] theorem presenting_locked (s : State) (i : Instr) : (s.presenting i).locked = s.locked := by cases i <;> rfl

/-- The stream part discards a byte: the block hunts, and the byte is no candidate (rule R175). -/
def State.Discards (s : State) : Prop :=
  s.ph ≠ .faulted ∧ ∃ b s', s.nextByte = some (b, s') ∧ s.idx = 0 ∧ ¬ s.Candidate b

theorem candidate_congr {s t : State} (h : t.lut = s.lut) (b : Byte) : t.Candidate b ↔ s.Candidate b := by
  rw [State.Candidate, State.Candidate, h]

theorem discards_iff_of_nextByte {s s' : State} {b : Byte} (hph : s.ph ≠ .faulted) (hn : s.nextByte = some (b, s')) :
    s.Discards ↔ s'.acceptsIntoFrame b = false := by
  rw [acceptsIntoFrame_eq_false_iff, (nextByte_held hn).idx, candidate_congr (nextByte_settings hn).lut]
  constructor
  · rintro ⟨-, b', s'', hn', h⟩
    rw [hn, Option.some.injEq, Prod.mk.injEq] at hn'
    rwa [hn'.1]
  · exact fun h => ⟨hph, b, s', hn, h⟩

theorem nextByte_cnt {s s' : State} {b : Byte} (h : s.nextByte = some (b, s')) : s'.cnt = s.cnt := by
  rcases nextByte_cases h with ⟨q, -, -, -, rfl⟩ | ⟨-, -, -, rfl⟩ <;> rfl

/-- The counters of a stream part: one for a discarded byte, one for the event. -/
theorem streamPart_counts {s : State} {r : StreamResult} (hr : streamPart s = .ok r) :
    (s.Discards ∧ r.Counts s [.skipped]) ∨ (¬ s.Discards ∧ r.Counts s []) := by
  rcases streamPart_cases hr with ⟨hf, rfl⟩ | ⟨-, hn, rfl⟩ | ⟨b, s', hf, hn, ha, rfl⟩ | ⟨b, s', hf, hn, ha, -, rfl⟩
  · exact .inr ⟨fun hd => hd.1 hf, ⟨rfl, rfl⟩⟩
  · refine .inr ⟨?_, ⟨rfl, rfl⟩⟩
    rintro ⟨-, b, s', hn', -⟩
    rw [hn] at hn'
    cases hn'
  · have hc := huntDiscard_counts s' b
    exact .inl ⟨(discards_iff_of_nextByte hf hn).mpr ha, nextByte_cnt hn ▸ hc.cnt, hc.inc⟩
  · have hc := frameByte_counts s' b
    refine .inr ⟨?_, nextByte_cnt hn ▸ hc.cnt, hc.inc⟩
    rw [discards_iff_of_nextByte hf hn, ha]
    exact nofun

theorem presenting_discards_iff (s : State) (i : Instr) :
    (s.presenting i).Discards ↔ ∃ b, s.ProcessesByte i b ∧ s.idx = 0 ∧ ¬ s.Candidate b := by
  have hcand := candidate_congr (presenting_settings s i).lut
  rw [State.Discards, presenting_ph, presenting_idx]
  simp only [hcand, State.ProcessesByte]
  constructor
  · rintro ⟨hf, b, s', hn, h⟩
    exact ⟨b, ⟨hf, s', hn⟩, h⟩
  · rintro ⟨b, ⟨hf, s', hn⟩, h⟩
    exact ⟨hf, b, s', hn, h⟩

/-- The counters after a step that does not clear them are those its stream part left. -/
theorem exec_cnt {i : Instr} {s : State} (hclr : ¬ WritesCmd i 0x00000003) (inc : List Counter) :
    ((busOf i).2 inc s).1.cnt = s.cnt := by
  cases busOf_progress i inc s with
  | kept e => exact e.cnt
  | frameEnded _ _ _ cnt => exact cnt
  | countersCleared clr _ _ _ => exact absurd clr hclr

/-- One event and at most one discarded byte, counter by counter. -/
theorem counts_by_event (c : Counters) (ev : Option StreamEvent) {first : List Counter}
    (h : first = [] ∨ first = [.skipped]) :
    let c' := (first ++ ev.toList.map StreamEvent.counter).foldl Counters.bump c
    c'.framesOk = c.framesOk + (if ev = some .frameOk then 1 else 0) ∧
      c'.cksumErr = c.cksumErr + (if ev = some .checksumMismatch then 1 else 0) ∧
      c'.malformed = c.malformed + (if ev = some .malformedHeader then 1 else 0) ∧
      c'.unknown = c.unknown + (if ev = some .unknownProtocol then 1 else 0) ∧
      c'.skipped = c.skipped + (if first = [.skipped] then 1 else 0) := by
  rcases h with rfl | rfl <;> rcases ev with _ | _ | _ | _ | _ <;>
    simp [StreamEvent.counter, Counters.bump]

/-- Settles O44. The stream part counts its discarded byte and its event, and the bus part leaves the counters. -/
theorem countersFollowTheEvents : Obligations.CountersFollowTheEvents := by
  unfold Obligations.CountersFollowTheEvents
  intro i s t he hclr
  obtain ⟨r, hr, rfl⟩ := exec_next he
  rw [← presenting_discards_iff, finish_evq, finish_cnt, exec_cnt hclr]
  rcases streamPart_counts hr with ⟨hd, hc⟩ | ⟨hd, hc⟩
  · obtain ⟨h1, h2, h3, h4, h5⟩ := counts_by_event s.cnt r.ev (.inr rfl)
    rw [hc.cnt, hc.inc, presenting_cnt]
    exact ⟨h1, h2, h3, h4, fun _ => h5, fun hn => absurd hd hn⟩
  · obtain ⟨h1, h2, h3, h4, h5⟩ := counts_by_event s.cnt r.ev (.inl rfl)
    rw [hc.cnt, hc.inc, presenting_cnt]
    exact ⟨h1, h2, h3, h4, fun hn => absurd hn hd, fun _ => h5.trans (by simp)⟩


end Sys2Proof.Machine

end

section
/-! PROOFS. What the stream part records of an error (rules R30, R252, R263). -/

namespace Sys2Proof.Machine

/-! ### What the stream part records (rules R30, R252, R263) -/

/-- The rows of rule R252 with BAD_SYNC's, the one fault of a discarded byte. -/
def State.StreamFaultRow (s : State) (kind : ErrorKind) (reason : ErrReason) : Prop :=
  (kind = .malformedHeader ∧ reason = .badSync ∧ s.idx = 0 ∧ s.locked = true) ∨ s.FaultRow kind reason

theorem streamFaultRow_congr {s t : State} {kind : ErrorKind} {reason : ErrReason} (hidx : t.idx = s.idx)
    (hhdr : t.hdr = s.hdr) (hlocked : t.locked = s.locked) (h : t.StreamFaultRow kind reason) :
    s.StreamFaultRow kind reason := by
  rw [State.StreamFaultRow, hidx, hlocked] at h
  refine h.imp_right fun row => ?_
  cases row with
  | unknownSignature idx => exact .unknownSignature (hidx ▸ idx)
  | badVersion idx => exact .badVersion (hidx ▸ idx)
  | lengthTooSmall idx => exact .lengthTooSmall (hidx ▸ idx)
  | lengthTooLarge idx => exact .lengthTooLarge (hidx ▸ idx)
  | checksumMismatch idx last => exact .checksumMismatch (hidx ▸ idx) (hidx ▸ hhdr ▸ last)

/-- Everything the stream part records: no error, or the fault of a row for the byte processed. -/
inductive StreamRecords (s : State) (r : StreamResult) : Prop where
  | noError (ev : r.ev = none ∨ r.ev = some .frameOk) (err : r.st.err = s.err)
  | fault {b : Byte} {s' : State} {kind : ErrorKind} {reason : ErrReason} (hph : s.ph ≠ .faulted)
      (next : s.nextByte = some (b, s')) (row : s.StreamFaultRow kind reason) (ev : r.ev = some kind.event)
      (locked : r.st.locked = false) (err : r.st.err = { reason := reason, byte := b, idx := s.idx })

theorem nextByte_locked {s s' : State} {b : Byte} (h : s.nextByte = some (b, s')) : s'.locked = s.locked := by
  rcases nextByte_cases h with ⟨q, -, -, -, rfl⟩ | ⟨-, -, -, rfl⟩ <;> rfl

theorem nextByte_err {s s' : State} {b : Byte} (h : s.nextByte = some (b, s')) : s'.err = s.err := by
  rcases nextByte_cases h with ⟨q, -, -, -, rfl⟩ | ⟨-, -, -, rfl⟩ <;> rfl

theorem streamPart_records {s : State} {r : StreamResult} (hr : streamPart s = .ok r) : StreamRecords s r := by
  rcases streamPart_cases hr with ⟨hf, rfl⟩ | ⟨-, -, rfl⟩ | ⟨b, s', hf, hn, ha, rfl⟩ | ⟨b, s', hf, hn, -, -, rfl⟩
  · exact .noError (.inl rfl) rfl
  · exact .noError (.inl rfl) rfl
  · have hidx : s.idx = 0 := (nextByte_held hn).idx ▸ ((acceptsIntoFrame_eq_false_iff s' b).mp ha).1
    unfold huntDiscard
    dsimp only
    split
    next hl =>
      exact .fault hf hn (.inl ⟨rfl, rfl, hidx, nextByte_locked hn ▸ hl⟩) rfl rfl (by rw [hidx]; rfl)
    next =>
      have herr := nextByte_err hn
      exact .noError (.inl rfl) herr
  · cases frameByte_raises s' b with
    | quiet ev _ _ err => exact .noError (.inl ev) (err.trans (nextByte_err hn))
    | frameOk ev _ _ err => exact .noError (.inr ev) (err.trans (nextByte_err hn))
    | fault row before replay raised _ =>
      have hheld := nextByte_held hn
      refine .fault hf hn (streamFaultRow_congr hheld.idx hheld.hdr (nextByte_locked hn) (.inr row)) ?_ ?_ ?_ <;>
        rw [raised]
      · rfl
      · rfl
      · rw [raiseFault_st_err, hheld.idx]

/-- The byte that fails the compare is the frame's last (rule R190). -/
theorem last_index_of_inv {s : State} (hinv : s.Inv) (hrecv : s.ph.receiving) (h4 : 4 ≤ s.idx.toNat)
    (hlast : ¬ s.idx < s.hdr.flen - 1) : s.idx.toNat + 1 = s.hdr.flen.toNat := by
  obtain ⟨-, hpos, -, -⟩ := hinv.position_ok
  have hlt := (hpos hrecv h4).2.1
  bv_omega

/-- The bus part never sets LOCKED. -/
theorem busOf_unlocked (i : Instr) (inc : List Counter) {s : State} (h : s.locked = false) :
    ((busOf i).2 inc s).1.locked = false := by
  cases busOf_progress i inc s with
  | kept e => exact e.locked.trans h
  | frameEnded _ _ locked _ => exact locked.elim (·.trans h) id
  | countersCleared _ _ _ locked => exact locked.trans h

/-- The reason of a row tells its index, and the event of its kind. -/
theorem streamFaultRow_index {s : State} (hrecv : s.ph.receiving) {kind : ErrorKind} {reason : ErrReason}
    (h : s.StreamFaultRow kind reason) :
    let ev := some kind.event
    (ev = some .malformedHeader ∧ reason = .badSync ∧ s.idx = 0 ∧ s.locked = true) ∨
      (ev = some .unknownProtocol ∧ reason = .unknownSignature ∧ s.idx = 1) ∨
      (ev = some .malformedHeader ∧ reason = .badVersion ∧ s.idx = 1) ∨
      (ev = some .malformedHeader ∧ reason = .lengthTooSmall ∧ s.idx = 3) ∨
      (ev = some .malformedHeader ∧ reason = .lengthTooLarge ∧ s.idx = 3) ∨
      (ev = some .checksumMismatch ∧ reason = .checksumMismatch ∧ 4 ≤ s.idx.toNat ∧
        (s.Inv → s.idx.toNat + 1 = s.hdr.flen.toNat)) := by
  rcases h with ⟨rfl, rfl, idx, locked⟩ | row
  · exact .inl ⟨rfl, rfl, idx, locked⟩
  cases row with
  | unknownSignature idx => exact .inr (.inl ⟨rfl, rfl, idx⟩)
  | badVersion idx => exact .inr (.inr (.inl ⟨rfl, rfl, idx⟩))
  | lengthTooSmall idx => exact .inr (.inr (.inr (.inl ⟨rfl, rfl, idx⟩)))
  | lengthTooLarge idx => exact .inr (.inr (.inr (.inr (.inl ⟨rfl, rfl, idx⟩))))
  | checksumMismatch idx last =>
    exact .inr (.inr (.inr (.inr (.inr ⟨rfl, rfl, idx, fun hinv => last_index_of_inv hinv hrecv idx last⟩))))

theorem errorKind_event_ne_frameOk (k : ErrorKind) : some k.event ≠ some .frameOk := by
  cases k <;> exact nofun

/-- Settles O45. The stream part records its error, and the bus part leaves the record and the lock fallen. -/
theorem errorRecords : Obligations.ErrorRecords := by
  unfold Obligations.ErrorRecords
  intro i s t he
  obtain ⟨r, hr, rfl⟩ := exec_next he
  rw [finish_evq, finish_err, finish_locked, (busOf_frame i r.inc r.st).err]
  cases streamPart_records hr with
  | noError ev err => exact ⟨fun _ => err.trans (presenting_err s i), fun ⟨hne, hok⟩ => (ev.elim hne hok).elim⟩
  | fault hph next row ev locked err =>
    have hrow := streamFaultRow_congr (presenting_idx s i) (presenting_hdr s i) (presenting_locked s i) row
    have hrecv : s.ph.receiving := presenting_ph s i ▸ nextByte_receiving next
    rw [ev, err]
    refine ⟨fun h => h.elim nofun (fun hok => absurd hok (errorKind_event_ne_frameOk _)), fun _ => ?_⟩
    exact ⟨busOf_unlocked i r.inc locked, presenting_idx s i, ⟨presenting_ph s i ▸ hph, _, next⟩,
      streamFaultRow_index hrecv hrow⟩


end Sys2Proof.Machine

end

section
/-! PROOFS. The outputs of a step (rules R57, R266). -/

namespace Sys2Proof.Machine

/-! ### The outputs (rules R57, R266) -/

theorem inReady_iff (s : State) :
    s.inReady = true ↔ s.en = true ∧ s.rq = [] ∧ s.ph ≠ .complete ∧ s.ph ≠ .faulted := by
  simp [State.inReady, and_assoc]

theorem irq_iff (s : State) : s.irq = true ↔ ∃ k < 6, s.events.getLsbD k = true ∧ s.irqEn.getLsbD k = true := by
  rw [State.irq, bne_iff_ne]
  constructor
  · intro hne
    by_contra hno
    push Not at hno
    exact hne (BitVec.eq_of_getLsbD_eq fun k hk => by simpa using hno k hk)
  · rintro ⟨k, -, hev, hen⟩ h0
    have hk := congrArg (BitVec.getLsbD · k) h0
    simp [hev, hen] at hk

/-- Neither the offered byte nor the inputs to come show in the outputs. -/
theorem outputs_withInputs (s : State) (o : Option Byte) (ls : List Line) (rd : Option Addr) :
    State.outputs { s with offer := o, script := ls } rd = s.outputs rd := rfl

theorem outputs_evCode_of_some {s : State} {e : StreamEvent} (h : s.evq = some e) (rd : Option Addr) :
    (s.outputs rd).evCode = e.code := by
  simp [State.outputs, h]

theorem outputs_evCode_of_none {s : State} (h : s.evq = none) (rd : Option Addr) : (s.outputs rd).evCode = 0 := by
  simp [State.outputs, h]

theorem outputs_variant_toNat (s : State) (rd : Option Addr) : (s.outputs rd).variant.toNat = s.ctx.var.val := by
  have hvar := s.ctx.var.isLt
  change (BitVec.ofNat 3 s.ctx.var.val).toNat = _
  rw [BitVec.toNat_ofNat]
  omega

/-- Settles O47. The outputs are recorded from the state whose ports carry the operation, which differs from the pre-step
state in the offered byte alone. -/
theorem mooreOutputs : Obligations.MooreOutputs := by
  unfold Obligations.MooreOutputs
  intro i s t he
  obtain ⟨r, hr, rfl⟩ := exec_next he
  obtain ⟨o, ho⟩ := presenting_eq s i
  rw [finish_out, ho, outputs_withInputs]
  refine ⟨inReady_iff s, beq_iff_eq, irq_iff s, Option.isSome_iff_ne_none, fun e he => outputs_evCode_of_some he _,
    fun hn => outputs_evCode_of_none hn _, outputs_variant_toNat s _, ?_⟩
  rintro a rfl
  rfl

end Sys2Proof.Machine

end

section
/-! PROOFS. The register words as fields side by side (rules R26 to R43). -/

namespace Sys2Proof.Machine

/-! ### Fields of a register word -/

/-- A field of a register word, at bit `k`. -/
def field {n : Nat} (k : Nat) (x : BitVec n) : Word := x.setWidth 32 <<< k

theorem setWidth_eq_field {n : Nat} (x : BitVec n) : x.setWidth 32 = field 0 x := by
  rw [field, BitVec.shiftLeft_zero]

theorem ofNat_eq_setWidth {v n : Nat} (h : v < 2 ^ n) (hn : n ≤ 32) :
    BitVec.ofNat 32 v = (BitVec.ofNat n v).setWidth 32 := by
  have h32 : 2 ^ n ≤ 2 ^ 32 := Nat.pow_le_pow_right (by omega) hn
  apply BitVec.eq_of_toNat_eq
  rw [BitVec.toNat_setWidth, BitVec.toNat_ofNat, BitVec.toNat_ofNat, Nat.mod_eq_of_lt h, Nat.mod_eq_of_lt (by omega)]

theorem bit_eq_setWidth (b : Bool) : bit b = (BitVec.ofBool b).setWidth 32 := by
  cases b <;> rfl

theorem getLsbD_field {n : Nat} (k j : Nat) (x : BitVec n) (hj : j < 32) :
    (field k x).getLsbD j = (decide (k ≤ j) && x.getLsbD (j - k)) := by
  simp only [field, BitVec.getLsbD_shiftLeft, BitVec.getLsbD_setWidth, hj, show j - k < 32 by omega, decide_true,
    Bool.true_and, ← decide_not, Nat.not_lt]

@[simp] theorem extract_field_same {n k : Nat} (x : BitVec n) (h : k + n ≤ 32) : (field k x).extractLsb' k n = x := by
  apply BitVec.eq_of_getLsbD_eq
  intro i hi
  simp [getLsbD_field k (k + i) x (by omega), hi]

@[simp] theorem extract_field_other {n k lo len : Nat} (x : BitVec n) (hw : lo + len ≤ 32)
    (h : lo + len ≤ k ∨ k + n ≤ lo) :
    (field k x).extractLsb' lo len = 0 := by
  apply BitVec.eq_of_getLsbD_eq
  intro i hi
  rw [BitVec.getLsbD_extractLsb', getLsbD_field k (lo + i) x (by omega)]
  rcases h with h | h
  · simp [show ¬ k ≤ lo + i by omega]
  · simp [BitVec.getLsbD_of_ge x (lo + i - k) (by omega)]

@[simp] theorem getElem_field_same {k : Nat} (b : Bool) (hk : k < 32) : (field k (BitVec.ofBool b))[k] = b := by
  rw [← BitVec.getLsbD_eq_getElem, getLsbD_field k k _ hk]
  simp

@[simp] theorem getElem_field_other {n k j : Nat} (x : BitVec n) (hj : j < 32) (h : j < k ∨ k + n ≤ j) :
    (field k x)[j] = false := by
  rw [← BitVec.getLsbD_eq_getElem, getLsbD_field k j x hj]
  rcases h with h | h
  · simp [show ¬ k ≤ j by omega]
  · simp [BitVec.getLsbD_of_ge x (j - k) (by omega)]

theorem statusWord_eq {s : State} (h : s.rq.length ≤ 3) :
    s.statusWord =
      field 0 s.ph.code ||| field 3 (BitVec.ofNat 3 s.ctx.var.val) ||| field 6 s.ctx.ftype.code |||
        field 8 (BitVec.ofBool s.locked) ||| field 9 (BitVec.ofNat 2 s.rq.length) |||
        field 11 (BitVec.ofBool (s.ph == .complete)) ||| field 16 s.need := by
  have hvar := s.ctx.var.isLt
  rw [State.statusWord, ofNat_eq_setWidth (n := 3) (v := s.ctx.var.val) (by omega) (by omega),
    ofNat_eq_setWidth (n := 2) (v := s.rq.length) (by omega) (by omega), bit_eq_setWidth, bit_eq_setWidth,
    setWidth_eq_field s.ph.code]
  rfl

/-- Settles O9. STATUS is its fields side by side. -/
theorem statusFields : Obligations.StatusFields := by
  unfold Obligations.StatusFields
  refine ⟨fun s hrq => ?_, by decide⟩
  have hw : s.rdata 0x008 = s.statusWord := rfl
  have hvar := s.ctx.var.isLt
  rw [hw, statusWord_eq hrq]
  simp [BitVec.extractLsb'_or]
  omega


/-! ### The words of the records and of the tables (rules R30 to R43) -/

theorem headerLen_setWidth (s : State) :
    s.headerLen.setWidth 32 = (BitVec.ofNat 8 (12 + s.ctx.frac.val)).setWidth 32 := by
  have hfrac := s.ctx.frac.isLt
  apply BitVec.eq_of_toNat_eq
  rw [BitVec.toNat_setWidth, headerLen_toNat, BitVec.toNat_setWidth, BitVec.toNat_ofNat]
  omega

theorem curDescWord_eq (s : State) :
    s.curDescWord =
      field 0 s.ctx.alg.code ||| field 2 (BitVec.ofNat 2 s.ctx.frac.val) ||| field 4 (BitVec.ofNat 2 s.ctx.foot.val) |||
        field 6 (BitVec.ofBool s.ctx.ord) ||| field 8 s.ctx.off ||| field 16 (BitVec.ofNat 8 (12 + s.ctx.frac.val)) := by
  have hfrac := s.ctx.frac.isLt
  have hfoot := s.ctx.foot.isLt
  rw [State.curDescWord, ofNat_eq_setWidth (n := 2) (v := s.ctx.frac.val) (by omega) (by omega),
    ofNat_eq_setWidth (n := 2) (v := s.ctx.foot.val) (by omega) (by omega), bit_eq_setWidth,
    setWidth_eq_field s.ctx.alg.code, headerLen_setWidth]
  rfl

theorem lutWord_eq (e : LutEntry) :
    e.toWord =
      field 0 (BitVec.ofBool e.valid) ||| field 1 (BitVec.ofNat 3 e.variant.val) ||| field 8 e.sync |||
        field 16 e.nibbleMask := by
  have hvar := e.variant.isLt
  rw [LutEntry.toWord, ofNat_eq_setWidth (n := 3) (v := e.variant.val) (by omega) (by omega), bit_eq_setWidth,
    setWidth_eq_field (BitVec.ofBool e.valid)]
  rfl

theorem vcfgWord_eq (c : VariantCfg) :
    c.toWord =
      field 0 c.alg.code ||| field 2 (BitVec.ofNat 2 c.frac.val) ||| field 4 (BitVec.ofNat 2 c.foot.val) |||
        field 6 (BitVec.ofBool c.order) ||| field 8 c.off ||| field 16 c.versionMask := by
  have hfrac := c.frac.isLt
  have hfoot := c.foot.isLt
  rw [VariantCfg.toWord, ofNat_eq_setWidth (n := 2) (v := c.frac.val) (by omega) (by omega),
    ofNat_eq_setWidth (n := 2) (v := c.foot.val) (by omega) (by omega), bit_eq_setWidth,
    setWidth_eq_field c.alg.code]
  rfl

theorem hostWord_lutSig (i : Fin 8) : hostWord (0x100 + BitVec.ofNat 17 (4 * i.val)) = .lutSig i := by
  fin_cases i <;> rfl

theorem hostWord_vdesc {a : Addr} {v : Fin 5} {k : Nat} (ha : (a &&& 0x1FFFC).toNat = 0x200 + 16 * v.val + k)
    (hk : k < 16) : hostWord a = vdescRegister v k := by
  have hv := v.isLt
  have hblock : (0x200 + 16 * v.val + k - 0x200) / 16 = v.val := by omega
  have hwithin : (0x200 + 16 * v.val + k - 0x200) % 16 = k := by omega
  unfold hostWord
  simp only [ha, hblock, hwithin]
  rw [if_neg (by omega), dif_neg (by omega), dif_pos (by omega)]

theorem hostWord_vdescCfg (v : Fin 5) : hostWord (0x200 + BitVec.ofNat 17 (16 * v.val)) = .vdescCfg v :=
  hostWord_vdesc (k := 0) (by fin_cases v <;> rfl) (by omega)

theorem hostWord_vdescTmap (v : Fin 5) : hostWord (0x204 + BitVec.ofNat 17 (16 * v.val)) = .vdescTmap v :=
  hostWord_vdesc (k := 4) (by fin_cases v <;> rfl) (by omega)

theorem rdata_lutSig (s : State) (i : Fin 8) :
    s.rdata (0x100 + BitVec.ofNat 17 (4 * i.val)) = s.lut[i].toWord := by
  rw [State.rdata, hostWord_lutSig, State.wordValue]

theorem rdata_vdescCfg (s : State) (v : Fin 5) :
    s.rdata (0x200 + BitVec.ofNat 17 (16 * v.val)) = s.vcfg[v].toWord := by
  rw [State.rdata, hostWord_vdescCfg, State.wordValue]

theorem rdata_vdescTmap (s : State) (v : Fin 5) :
    s.rdata (0x204 + BitVec.ofNat 17 (16 * v.val)) = s.vtmap[v] := by
  rw [State.rdata, hostWord_vdescTmap, State.wordValue]

theorem rdata_errDetail (s : State) :
    s.rdata 0x018 = field 0 s.err.reason.code ||| field 8 s.err.byte ||| field 16 s.err.idx := by
  rw [← setWidth_eq_field]
  rfl

theorem rdata_hdr0 (s : State) : s.rdata 0x020 = field 0 s.hdr.sync ||| field 8 s.hdr.tv ||| field 16 s.hdr.flen := by
  rw [← setWidth_eq_field]
  rfl

theorem rdata_hdr1 (s : State) : s.rdata 0x024 = field 0 s.hdr.idc ||| field 16 s.hdr.cells := by
  rw [← setWidth_eq_field]
  rfl

theorem rdata_ckLast (s : State) : s.rdata 0x030 = field 0 s.ckComp ||| field 16 s.ckRecv := by
  rw [← setWidth_eq_field]
  rfl

theorem rdata_ckResult (s : State) : s.rdata 0x060 = field 0 s.engine.acc ||| field 16 s.engine.alg.code := by
  rw [← setWidth_eq_field]
  rfl

/-- Settles O10. Each register is its fields side by side. -/
theorem recordRegisterFields : Obligations.RecordRegisterFields := by
  unfold Obligations.RecordRegisterFields
  refine ⟨fun s => ?_, by decide, fun s i => ?_, fun s v => ?_, fun s => ?_⟩
  · have hw : s.rdata 0x038 = s.curDescWord := rfl
    have hfrac := s.ctx.frac.isLt
    have hfoot := s.ctx.foot.isLt
    rw [hw, curDescWord_eq]
    simp [BitVec.extractLsb'_or]
    omega
  · rw [rdata_lutSig, lutWord_eq]
    generalize s.lut[i] = e
    have hvar := e.variant.isLt
    simp [BitVec.extractLsb'_or]
    omega
  · rw [rdata_vdescCfg, vcfgWord_eq]
    generalize s.vcfg[v] = c
    have hfrac := c.frac.isLt
    have hfoot := c.foot.isLt
    simp [BitVec.extractLsb'_or]
    omega
  · rw [rdata_errDetail, rdata_hdr0, rdata_hdr1, rdata_ckLast, rdata_ckResult]
    simp [BitVec.extractLsb'_or]

end Sys2Proof.Machine

end

section
/-! PROOFS. The whole-word registers and the reserved addresses (rules R24 to R46). -/

namespace Sys2Proof.Machine

/-! ### Reserved addresses (rule R46) -/

/-- The word addresses of the reserved ranges of rule R23. -/
def reservedWord (w : Nat) : Prop :=
  w = 0x01C ∨ w = 0x03C ∨ (0x054 ≤ w ∧ w ≤ 0x05C) ∨ (0x068 ≤ w ∧ w ≤ 0x0FC) ∨ (0x120 ≤ w ∧ w ≤ 0x1FC) ∨
    (0x200 ≤ w ∧ w < 0x250 ∧ (w % 16 = 8 ∨ w % 16 = 12)) ∨ (0x250 ≤ w ∧ w ≤ 0xFFFC)

theorem singleRegister_reserved {w : Nat} (h : reservedWord w) : singleRegister w = .reserved := by
  unfold reservedWord at h
  unfold singleRegister
  split
  case h_22 => rfl
  all_goals omega

theorem hostWord_reserved {a : Addr} (h : reservedWord (a &&& 0x1FFFC).toNat) : hostWord a = .reserved := by
  have hsingle := singleRegister_reserved h
  unfold reservedWord at h
  unfold hostWord
  dsimp only
  rw [if_neg (by omega), dif_neg (by omega)]
  split
  next hv => rw [vdescRegister, if_neg (by omega), if_neg (by omega)]
  next => exact hsingle

/-- Settles O8. Each register's word is its state element, and a reserved address names no register. -/
theorem registerReadValues : Obligations.RegisterReadValues := by
  unfold Obligations.RegisterReadValues
  intro s
  have hctrl : s.rdata 0x004 = bit s.en := rfl
  have hen : (bit s.en).getLsbD 0 = s.en ∧ bit s.en &&& 0xFFFFFFFE = 0 := by
    cases s.en <;> decide
  rw [hctrl]
  refine ⟨rfl, hen.1, hen.2, rfl, rfl, rfl, rfl, rfl, rfl, rfl, rfl, rfl, rfl, rfl, rfl, rdata_vdescTmap s, fun a h => ?_⟩
  rw [State.rdata, hostWord_reserved h, State.wordValue]


end Sys2Proof.Machine

end

section
/-! PROOFS. The reset state (rules R58, R281). -/

namespace Sys2Proof.Machine

/-! ### The reset state (rule R58) -/

/-- Settles O5. The fields are those of the reset table, and the tables' words are read through their registers. -/
theorem resetValues : Obligations.ResetValues := by
  unfold Obligations.ResetValues
  refine ⟨rfl, rfl, rfl, rfl, rfl, rfl, rfl, rfl, rfl, rfl, rfl, rfl, rfl, rfl, rfl, rfl, fun i => ?_, fun v => ⟨?_, ?_⟩, rfl,
    fun _ => rfl⟩
  · rw [rdata_lutSig]
    fin_cases i <;> rfl
  · rw [rdata_vdescCfg]
    fin_cases v <;> rfl
  · rw [rdata_vdescTmap]
    fin_cases v <;> rfl

/-- At reset the block hunts with an empty queue, so only the bounds of hunting are asked. -/
theorem reset_inv : State.reset.Inv where
  cfg_wf := by decide
  fbuf_wf := reset_fbuf_wf
  fbuf_below := rfl
  no_structural_mismatch := by decide
  replay_ok := ⟨Nat.zero_le 3, fun h => absurd rfl h⟩
  position_ok := ⟨fun _ _ => rfl, fun _ h4 => absurd h4 (by decide), nofun, nofun⟩

/-- Settles O53. The reset state holds no frame. -/
theorem invariantsAtReset : Obligations.InvariantsAtReset := by
  unfold Obligations.InvariantsAtReset
  exact ⟨reset_inv, frameInv_of_no_frame nofun (.inl rfl)⟩


end Sys2Proof.Machine

end

section
/-! PROOFS. A step runs the operation its ports decode to (rules R56, R90, R103, R171). -/

namespace Sys2Proof

/-! ### The operation a line's ports decode to (rules R90, R94) -/

/-- A word that matches no row of the map is no command word. -/
theorem isCommandWord_of_decodeCmd_none {w : Word} (h : decodeCmd w = none) : isCommandWord w = false := by
  have hrows : ∀ r ∈ cmdRows, ¬ (w &&& r.mask == r.pattern) = true := by
    simpa [decodeCmd] using h
  have hall : w &&& 0xFFFFFFFF#32 = w := BitVec.and_allOnes
  simpa [cmdRows, isCommandWord, hall, and_assoc] using hrows

theorem cmdRow_make_wellFormed {r : CmdRow} (hr : r ∈ cmdRows) (w : Word) : (r.make w).wellFormed = true := by
  simp only [cmdRows, List.mem_cons, List.not_mem_nil, or_false] at hr
  rcases hr with rfl | rfl | rfl | rfl | rfl | rfl <;> rfl

theorem decodeCmd_wellFormed {w : Word} {i : Instr} (h : decodeCmd w = some i) : i.wellFormed = true := by
  obtain ⟨r, hr, rfl⟩ := Option.map_eq_some_iff.mp h
  exact cmdRow_make_wellFormed (List.mem_of_find?_eq_some hr) w

/-- Every port word decodes to an operation written in its own form (rule R90). -/
theorem decodePort_wellFormed (p : PortWord) : (decodePort p).wellFormed = true := by
  rcases p with b | a | ⟨a, d⟩
  · rfl
  · rfl
  rw [decodePort]
  split
  next ha =>
    cases hd : decodeCmd d with
    | some i => exact decodeCmd_wellFormed hd
    | none => simp [Instr.wellFormed, isCommandWord_of_decodeCmd_none hd]
  next ha => simp [Instr.wellFormed, ha]

/-- A table word that decodes spells a port word (log 9). -/
theorem parsePort_of_decodeTableWord {nbits w : Nat} {i : Instr} (h : decodeTableWord nbits w = some i) :
    ∃ p, parsePort (tableBytes nbits w) = .ok p ∧ decodePort p = i := by
  rw [decodeTableWord, decode] at h
  cases hp : parsePort (tableBytes nbits w) with
  | error e =>
    rw [hp] at h
    cases h
  | ok p =>
    rw [hp] at h
    exact ⟨p, rfl, Option.some.inj h⟩

end Sys2Proof

namespace Sys2Proof.Machine

/-! ### One step of the machine (rules R56, R103; logs 1 to 3) -/

theorem settleOutcome_true (o : StepOutcome) : settleOutcome true o = o := by
  cases o <;> rfl

theorem step_of_offer {s : State} {b : Byte} (ho : s.offer = some b) : step s = exec (.streamByte b) s := by
  simp only [step, ho, decodePort]

theorem step_of_no_input {s : State} (ho : s.offer = none) (hs : s.script = []) : step s = idleEdge s := by
  simp only [step, ho, hs]

theorem step_of_line {s : State} {l : Line} {rest : List Line} (ho : s.offer = none) (hs : s.script = l :: rest) :
    step s = stepLine l (s.startLine l rest) := by
  simp only [step, ho, hs]

theorem stepLine_of_port {l : Line} {p : PortWord} (hr : l.rst = false) (hp : l.port = some p) (s : State) :
    stepLine l s = settleOutcome l.hold (exec (decodePort p) s) := by
  simp only [stepLine, hr, hp, Bool.false_eq_true, if_false]

theorem stepLine_of_no_port {l : Line} (hr : l.rst = false) (hp : l.port = none) (s : State) :
    stepLine l s = settleOutcome l.hold (idleEdge s) := by
  simp only [stepLine, hr, hp, Bool.false_eq_true, if_false]

theorem lineOf_port (p : PortWord) : (lineOf p).port = some p := by
  cases p <;> rfl

/-- The line of one operation offers the byte that the operation offers itself. -/
theorem exec_lineOf (p : PortWord) (s : State) :
    exec (decodePort p) { s with offer := (lineOf p).byte } = exec (decodePort p) { s with offer := none } := by
  cases p <;> rfl

/-- A placed port word runs in the very next step. -/
theorem step_lineOf (s : State) (p : PortWord) :
    step { s with offer := none, script := lineOf p :: s.script } = exec (decodePort p) { s with offer := none } := by
  have hrst : (lineOf p).rst = false := by cases p <;> rfl
  have hhold : (lineOf p).hold = true := by cases p <;> rfl
  rw [step_of_line rfl rfl, stepLine_of_port hrst (lineOf_port p), hhold, settleOutcome_true]
  exact exec_lineOf p s

/-- Settles O4. Each clause is one branch of `step`. -/
theorem stepRunsTheDecodedOperation : Obligations.StepRunsTheDecodedOperation := by
  unfold Obligations.StepRunsTheDecodedOperation
  refine ⟨fun s l rest p ho hs hr hp => ⟨decodePort_wellFormed p, ?_⟩, fun s l rest ho hs hr hbyte hbus => ?_,
    fun s b ho => step_of_offer ho, fun s ho hs => step_of_no_input ho hs, fun t => ⟨rfl, rfl⟩, fun s nbits w i hi => ?_⟩
  · rw [step_of_line ho hs, stepLine_of_port hr hp, State.startLine]
  · have hport : l.port = none := by simp only [Line.port, hbus, hbyte, Option.map_none]
    rw [step_of_line ho hs, stepLine_of_no_port hr hport, State.startLine, hbyte, ← ho]
  · obtain ⟨p, hp, rfl⟩ := parsePort_of_decodeTableWord hi
    have hfetch : s.withFetchWord nbits w = { s with offer := none, script := lineOf p :: s.script } := by
      rw [State.withFetchWord, State.withNextBytes, hp]
    exact ⟨decodePort_wellFormed p, hfetch ▸ step_lineOf s p⟩

end Sys2Proof.Machine

end

section
/-! PROOFS. The host's word addresses, and the lanes of the FBUF window (rules R72, R74). -/

namespace Sys2Proof.Machine

/-! ### Word addresses (rule R72) -/

/-- Clearing bits 1:0 rounds an address down to its word. -/
theorem wordAddress_toNat (a : Addr) : (a &&& 0x1FFFC).toNat = a.toNat / 4 * 4 := by
  have hmask : (0x1FFFC : Addr) = BitVec.allOnes 17 <<< 2 := rfl
  have hshift : a &&& (0x1FFFC : Addr) = a >>> 2 <<< 2 := by
    rw [hmask]
    ext i hi
    simp only [BitVec.getElem_and, BitVec.getElem_shiftLeft, BitVec.getElem_allOnes,
      BitVec.getElem_ushiftRight]
    by_cases h2 : i < 2
    · simp [h2]
    · simp [h2, show 2 + (i - 2) = i by omega, BitVec.getLsbD_eq_getElem hi]
  rw [hshift, BitVec.toNat_shiftLeft, BitVec.toNat_ushiftRight, Nat.shiftRight_eq_div_pow, Nat.shiftLeft_eq]
  have := a.isLt
  omega

/-- Bit 16 is the highest of an address. -/
theorem getLsbD_sixteen_iff (a : Addr) : a.getLsbD 16 = true ↔ 0x10000 ≤ a.toNat := by
  rw [← BitVec.msb_eq_getLsbD_last (x := a), BitVec.msb_eq_decide]
  simp

/-- An address and its word address name the same word. -/
theorem hostWord_wordAddress (a : Addr) : hostWord (a &&& 0x1FFFC) = hostWord a :=
  hostWord_congr (by rw [BitVec.and_assoc, BitVec.and_self])

theorem rdata_wordAddress (s : State) (a : Addr) : s.rdata (a &&& 0x1FFFC) = s.rdata a := by
  rw [State.rdata, hostWord_wordAddress, State.rdata]

theorem outputs_wordAddress (s : State) (a : Addr) : s.outputs (some (a &&& 0x1FFFC)) = s.outputs (some a) := by
  simp only [State.outputs, Option.map_some, rdata_wordAddress]

/-- A clock edge reads its address for the outputs alone (rule R57). -/
theorem clockEdge_of_outputs {rd rd' : Option Addr} {bus : BusPart} {s : State} (h : s.outputs rd = s.outputs rd') :
    clockEdge rd bus s = clockEdge rd' bus s := by
  simp only [clockEdge, h]

theorem writePart_wordAddress (a : Addr) (d : Word) : writePart (a &&& 0x1FFFC) d = writePart a d := by
  funext inc s
  rw [writePart, hostWord_wordAddress, writePart]

/-! ### The FBUF window (rules R72, R74) -/

/-- A window address names the window at the offset of its word. -/
theorem hostWord_window {a : Addr} (h : a.getLsbD 16 = true) : hostWord a = .window ((a.toNat - 0x10000) / 4 * 4) := by
  rw [getLsbD_sixteen_iff] at h
  unfold hostWord
  simp only [wordAddress_toNat]
  rw [if_pos (by omega), show a.toNat / 4 * 4 - 0x10000 = (a.toNat - 0x10000) / 4 * 4 by omega]

theorem vdescRegister_ne_window (v : Fin 5) (k o : Nat) : vdescRegister v k ≠ .window o := by
  unfold vdescRegister
  split
  · exact nofun
  split <;> exact nofun

theorem singleRegister_ne_window (w o : Nat) : singleRegister w ≠ .window o := by
  unfold singleRegister
  split <;> exact nofun

/-- Below the window no address names it. -/
theorem hostWord_ne_window {a : Addr} (h : a.toNat < 0x10000) (o : Nat) : hostWord a ≠ .window o := by
  unfold hostWord
  simp only [wordAddress_toNat]
  rw [if_neg (by omega)]
  split
  · exact nofun
  split
  · exact vdescRegister_ne_window _ _ o
  · exact singleRegister_ne_window _ o

theorem hostWord_eq_window_iff (a : Addr) : (∃ o, hostWord a = .window o) ↔ a.getLsbD 16 = true := by
  constructor
  · rintro ⟨o, ho⟩
    by_contra h
    rw [getLsbD_sixteen_iff, Nat.not_le] at h
    exact hostWord_ne_window h o ho
  · exact fun h => ⟨_, hostWord_window h⟩

/-- Settles O12. Both bus operations see the address through its word alone, and bit 16 tells the window. -/
theorem addressDecode : Obligations.AddressDecode := by
  unfold Obligations.AddressDecode
  refine fun a d s => ⟨?_, ?_, hostWord_eq_window_iff a⟩
  · exact clockEdge_of_outputs (bus := readPart) (outputs_wordAddress s a).symm
  · exact congrArg (clockEdge none · s) (writePart_wordAddress a d).symm

/-- Four bytes side by side, lane by lane. -/
theorem byteLanes (b0 b1 b2 b3 : Byte) :
    let w := b3 ++ (b2 ++ (b1 ++ b0))
    w.extractLsb' 0 8 = b0 ∧ w.extractLsb' 8 8 = b1 ∧ w.extractLsb' 16 8 = b2 ∧ w.extractLsb' 24 8 = b3 := by
  simp (disch := omega) only [BitVec.extractLsb'_append_eq_of_le, BitVec.extractLsb'_append_eq_of_add_le]
  refine ⟨?_, ?_, ?_, ?_⟩ <;> exact BitVec.extractLsb'_eq_self

theorem windowWord_lane (s : State) (o : Nat) {k : Nat} (hk : k < 4) :
    (s.windowWord o).extractLsb' (8 * k) 8 = s.windowLane o k := by
  obtain ⟨h0, h1, h2, h3⟩ := byteLanes (s.windowLane o 0) (s.windowLane o 1) (s.windowLane o 2) (s.windowLane o 3)
  match k, hk with
  | 0, _ => exact h0
  | 1, _ => exact h1
  | 2, _ => exact h2
  | 3, _ => exact h3

theorem windowLane_of_written {s : State} {o k : Nat} {b : Byte} (h : o + k < s.cfg.fbufBytes)
    (hb : s.fbuf.read (o + k) = some b) : s.windowLane o k = b := by
  rw [State.windowLane, if_pos h, hb, Option.getD_some]

theorem windowLane_past_end {s : State} {o k : Nat} (h : s.cfg.fbufBytes ≤ o + k) : s.windowLane o k = 0 := by
  rw [State.windowLane, if_neg (Nat.not_lt.mpr h)]

/-- Settles O11. A window read is the word of the four lanes at its offset. -/
theorem windowReadLanes : Obligations.WindowReadLanes := by
  unfold Obligations.WindowReadLanes
  intro s a k ha hk o
  have hlane : (s.rdata a).extractLsb' (8 * k) 8 = s.windowLane o k := by
    rw [State.rdata, hostWord_window ha]
    exact windowWord_lane s o hk
  rw [hlane]
  exact ⟨fun b => windowLane_of_written, windowLane_past_end⟩

end Sys2Proof.Machine

end

section
/-! PROOFS. What a step writes to FBUF, and that it never writes past its end (rule R73). -/

namespace Sys2Proof.Machine

/-! ### What a step writes to FBUF (rule R73) -/

@[simp] theorem presenting_fbuf (s : State) (i : Instr) : (s.presenting i).fbuf = s.fbuf := by cases i <;> rfl

/-- The stream part of an operation's step processes one byte at most. -/
theorem processesByte_unique {s : State} {i : Instr} {b b' : Byte} (h : s.ProcessesByte i b)
    (h' : s.ProcessesByte i b') : b = b' := by
  obtain ⟨-, u, hu⟩ := h
  obtain ⟨-, u', hu'⟩ := h'
  rw [hu, Option.some.injEq, Prod.mk.injEq] at hu'
  exact hu'.1

/-- The state without its next byte takes that byte into the frame where the state before does. -/
theorem acceptsIntoFrame_of_processed {s s' : State} {i : Instr} {b : Byte}
    (hn : (s.presenting i).nextByte = some (b, s')) :
    s'.acceptsIntoFrame b = false ↔ s.idx = 0 ∧ ¬ s.Candidate b := by
  have hidx : s'.idx = s.idx := (nextByte_held hn).idx.trans (presenting_idx s i)
  have hlut : s'.lut = s.lut := (nextByte_settings hn).lut.trans (presenting_settings s i).lut
  rw [acceptsIntoFrame_eq_false_iff, hidx, candidate_congr hlut]

/-- What the step of the operation `i` does to FBUF, which it leaves as `m`. -/
inductive State.StoresInto (s : State) (i : Instr) (m : Memory) : Prop where
  | nothing (none_accepted : ∀ b, s.ProcessesByte i b → s.idx = 0 ∧ ¬ s.Candidate b) (kept : m = s.fbuf)
  | byte (b : Byte) (processed : s.ProcessesByte i b) (accepted : ¬ (s.idx = 0 ∧ ¬ s.Candidate b))
      (written : m = s.fbuf.write s.idx.toNat b)

theorem streamPart_stores {s : State} {i : Instr} {r : StreamResult} (hr : streamPart (s.presenting i) = .ok r) :
    s.StoresInto i r.st.fbuf := by
  rcases streamPart_cases hr with ⟨hf, rfl⟩ | ⟨-, hn, rfl⟩ | ⟨b, s', hf, hn, ha, rfl⟩ | ⟨b, s', hf, hn, ha, -, rfl⟩
  · rw [presenting_ph] at hf
    exact .nothing (fun _ hb => absurd hf hb.1) (presenting_fbuf s i)
  · refine .nothing (fun b hb => ?_) (presenting_fbuf s i)
    obtain ⟨-, s', hn'⟩ := hb
    rw [hn] at hn'
    cases hn'
  · have hb : s.ProcessesByte i b := ⟨presenting_ph s i ▸ hf, s', hn⟩
    refine .nothing (fun b' hb' => ?_) ?_
    · rw [← processesByte_unique hb hb']
      exact (acceptsIntoFrame_of_processed hn).mp ha
    · rw [huntDiscard_fbuf, (nextByte_held hn).fbuf, presenting_fbuf]
  · refine .byte b ⟨presenting_ph s i ▸ hf, s', hn⟩ ?_ ?_
    · rw [← acceptsIntoFrame_of_processed hn, ha]
      exact nofun
    · rw [frameByte_fbuf, (nextByte_held hn).fbuf, (nextByte_held hn).idx, presenting_fbuf, presenting_idx]

/-- The bus part and the merge leave FBUF as the stream part left it. -/
theorem exec_stores {i : Instr} {s t : State} (he : exec i s = .next t) : s.StoresInto i t.fbuf := by
  obtain ⟨r, hr, rfl⟩ := exec_next he
  rw [finish_fbuf, (busOf_frame i r.inc r.st).fbuf]
  exact streamPart_stores hr

/-- Settles O42. A step leaves FBUF alone, or writes its accepted byte at IDX. -/
theorem frameBufferFrame : Obligations.FrameBufferFrame := by
  unfold Obligations.FrameBufferFrame
  intro i s t he
  cases exec_stores he with
  | nothing none_accepted kept =>
    refine ⟨fun a _ => by rw [kept], fun _ => kept, fun b hb hacc => ?_⟩
    obtain ⟨h0, hcand⟩ := none_accepted b hb
    exact hacc.elim (absurd h0) (absurd · hcand)
  | byte b processed accepted written =>
    refine ⟨fun a ha => ?_, fun hnone => absurd (hnone b processed) accepted, fun b' hb' _ => ?_⟩
    · rw [written, Memory.read_write_other _ _ _ _ ha]
    · rw [written, Memory.read_write_same, processesByte_unique processed hb']

/-! ### No byte is written past the end of FBUF (rules R73, R274) -/

theorem presenting_fits {s : State} (h : s.fits) (i : Instr) : (s.presenting i).fits := by
  rwa [State.fits, presenting_ph, presenting_idx, (presenting_settings s i).cfg]

/-- An operation completes in every state whose next frame byte has a place in FBUF. -/
theorem exec_of_fits {s : State} (h : s.fits) (i : Instr) : ∃ t, exec i s = .next t := by
  obtain ⟨r, hr⟩ := streamPart_of_fits (presenting_fits h i)
  exact ⟨_, exec_of_stream hr⟩

/-- Bytes 0 to 3 lie in the smallest FBUF, and every later byte below a length that FBUF holds. -/
theorem State.Inv.fits {s : State} (h : s.Inv) : s.fits := by
  by_cases hrecv : s.ph.receiving
  · refine .inr (.inr ?_)
    obtain ⟨-, hpos, -, -⟩ := h.position_ok
    by_cases h4 : 4 ≤ s.idx.toNat
    · obtain ⟨hlen, hlt, -⟩ := hpos hrecv h4
      exact (BitVec.lt_def.mp hlt).trans_le hlen.2
    · have hcfg := h.cfg_wf
      simp only [Config.wf, Bool.and_eq_true, decide_eq_true_eq] at hcfg
      omega
  · rw [Phase.receiving, not_and_or, not_not, not_not] at hrecv
    exact hrecv.imp_right .inl

/-- Settles O54. A state of the invariant fits, so its stream part answers. -/
theorem noFaultUnderTheInvariant : Obligations.NoFaultUnderTheInvariant := by
  unfold Obligations.NoFaultUnderTheInvariant
  exact fun i _ hinv => exec_of_fits hinv.fits i

end Sys2Proof.Machine

end

section
/-! PROOFS. A command word by its fields: the rows it matches and the command it runs (rules R93, R94, R229). -/

namespace Sys2Proof

/-! ### The fields of a CMD word (rule R93) -/

/-- The word with these MBZ, ARG and OP fields. -/
def wordOfFields (mbz : Half) (arg op : Byte) : Word := mbz ++ (arg ++ op)

@[simp] theorem wordOfFields_mbz (mbz : Half) (arg op : Byte) : (wordOfFields mbz arg op).extractLsb' 16 16 = mbz :=
  BitVec.extractLsb'_append_eq_left

@[simp] theorem wordOfFields_arg (mbz : Half) (arg op : Byte) : (wordOfFields mbz arg op).extractLsb' 8 8 = arg := by
  rw [wordOfFields, BitVec.extractLsb'_append_eq_of_add_le (by omega)]
  exact BitVec.extractLsb'_append_eq_left

@[simp] theorem wordOfFields_op (mbz : Half) (arg op : Byte) : (wordOfFields mbz arg op).extractLsb' 0 8 = op := by
  rw [wordOfFields, BitVec.extractLsb'_append_eq_of_add_le (by omega)]
  exact BitVec.extractLsb'_append_eq_right

theorem wordOfFields_extract (d : Word) :
    wordOfFields (d.extractLsb' 16 16) (d.extractLsb' 8 8) (d.extractLsb' 0 8) = d := by
  have hlow : d.extractLsb' 8 8 ++ d.extractLsb' 0 8 = d.extractLsb' 0 16 :=
    BitVec.extractLsb'_append_extractLsb'_eq_extractLsb' rfl
  rw [wordOfFields, hlow]
  exact BitVec.extractLsb'_append_extractLsb'

theorem eq_wordOfFields_iff (d : Word) (mbz : Half) (arg op : Byte) :
    d = wordOfFields mbz arg op ↔ d.extractLsb' 16 16 = mbz ∧ d.extractLsb' 8 8 = arg ∧ d.extractLsb' 0 8 = op := by
  constructor
  · rintro rfl
    exact ⟨wordOfFields_mbz mbz arg op, wordOfFields_arg mbz arg op, wordOfFields_op mbz arg op⟩
  · rintro ⟨rfl, rfl, rfl⟩
    exact (wordOfFields_extract d).symm

theorem eq_cmdWord_iff (d : Word) (op arg : Byte) :
    d = cmdWord op arg ↔ d.extractLsb' 16 16 = 0 ∧ d.extractLsb' 8 8 = arg ∧ d.extractLsb' 0 8 = op :=
  eq_wordOfFields_iff d 0 arg op

@[simp] theorem cmdWord_mbz (op arg : Byte) : (cmdWord op arg).extractLsb' 16 16 = 0 := wordOfFields_mbz 0 arg op

@[simp] theorem cmdWord_arg (op arg : Byte) : (cmdWord op arg).extractLsb' 8 8 = arg := wordOfFields_arg 0 arg op

@[simp] theorem cmdWord_op (op arg : Byte) : (cmdWord op arg).extractLsb' 0 8 = op := wordOfFields_op 0 arg op

/-- The mask of a row of the opcode map: MBZ and OP whole, and the ARG bits that `m` keeps. -/
def rowMask (m : Byte) : Word := wordOfFields (BitVec.allOnes 16) m (BitVec.allOnes 8)

/-- A word matches a row of the opcode map by its fields. -/
theorem and_rowMask_eq_iff (d : Word) (m op arg : Byte) :
    d &&& rowMask m = cmdWord op arg ↔
      d.extractLsb' 16 16 = 0 ∧ d.extractLsb' 8 8 &&& m = arg ∧ d.extractLsb' 0 8 = op := by
  rw [eq_cmdWord_iff, rowMask]
  simp only [BitVec.extractLsb'_and, wordOfFields_mbz, wordOfFields_arg, wordOfFields_op, BitVec.and_allOnes]

/-- The opcode map of rule R94, each row by its OP byte and the ARG bits that must be 0. -/
theorem cmdRows_eq :
    cmdRows =
      [ ⟨rowMask 0xFF, cmdWord 0x00 0, fun _ => .nop⟩,
        ⟨rowMask 0xFF, cmdWord 0x01 0, fun _ => .abort⟩,
        ⟨rowMask 0xFF, cmdWord 0x02 0, fun _ => .release⟩,
        ⟨rowMask 0xFF, cmdWord 0x03 0, fun _ => .clrCounters⟩,
        ⟨rowMask 0xFC, cmdWord 0x10 0, fun w => .ckInit (w.extractLsb' 8 2)⟩,
        ⟨rowMask 0x00, cmdWord 0x11 0, fun w => .ckByte (w.extractLsb' 8 8)⟩ ] := rfl

/-- The CMD word of a command (rules R93, R94); an operation that is no command has none. -/
def commandWord : Instr → Option Word
  | .nop => some (cmdWord 0x00 0x00)
  | .abort => some (cmdWord 0x01 0x00)
  | .release => some (cmdWord 0x02 0x00)
  | .clrCounters => some (cmdWord 0x03 0x00)
  | .ckInit alg => some (cmdWord 0x10 (alg.setWidth 8))
  | .ckByte b => some (cmdWord 0x11 b)
  | .streamByte _ => none
  | .csrRead _ => none
  | .csrWrite _ _ => none

/-- An ARG byte whose bits 7:2 are 0 is the algorithm in its bits 1:0. -/
theorem arg_eq_setWidth_of_and_eq_zero {d : Word} (h : d.extractLsb' 8 8 &&& 0xFC = 0) :
    d.extractLsb' 8 8 = (d.extractLsb' 8 2).setWidth 8 := by
  have hlow : d.extractLsb' 8 2 = (d.extractLsb' 8 8).setWidth 2 := by
    ext i hi
    simp [show i < 8 by omega]
  rw [hlow]
  generalize d.extractLsb' 8 8 = arg at h ⊢
  decide +revert

theorem cmdWord_eq_of_matches {d : Word} {m op arg : Byte} (h : d &&& rowMask m = cmdWord op 0)
    (harg : d.extractLsb' 8 8 &&& m = 0 → d.extractLsb' 8 8 = arg) : cmdWord op arg = d := by
  obtain ⟨hmbz, hmasked, hop⟩ := (and_rowMask_eq_iff _ _ _ _).mp h
  exact ((eq_cmdWord_iff _ _ _).mpr ⟨hmbz, harg hmasked, hop⟩).symm

/-- A word that matches a row is the word of the row's command. -/
theorem commandWord_make_of_matches {r : CmdRow} {d : Word} (hr : r ∈ cmdRows) (h : d &&& r.mask = r.pattern) :
    commandWord (r.make d) = some d := by
  have hwhole (harg : d.extractLsb' 8 8 &&& 0xFF = 0) : d.extractLsb' 8 8 = 0 := BitVec.and_allOnes.symm.trans harg
  rw [cmdRows_eq] at hr
  simp only [List.mem_cons, List.not_mem_nil, or_false] at hr
  rcases hr with rfl | rfl | rfl | rfl | rfl | rfl
  · exact congrArg some (cmdWord_eq_of_matches h hwhole)
  · exact congrArg some (cmdWord_eq_of_matches h hwhole)
  · exact congrArg some (cmdWord_eq_of_matches h hwhole)
  · exact congrArg some (cmdWord_eq_of_matches h hwhole)
  · exact congrArg some (cmdWord_eq_of_matches h arg_eq_setWidth_of_and_eq_zero)
  · exact congrArg some (cmdWord_eq_of_matches h fun _ => rfl)

theorem commandWord_of_decodeCmd {d : Word} {i : Instr} (h : decodeCmd d = some i) : commandWord i = some d := by
  obtain ⟨r, hr, rfl⟩ := Option.map_eq_some_iff.mp h
  have hmatch := List.find?_some (p := fun r : CmdRow => d &&& r.mask == r.pattern) hr
  exact commandWord_make_of_matches (List.mem_of_find?_eq_some hr) (beq_iff_eq.mp hmatch)

theorem decodeCmd_cmdWord_ckInit (alg : BitVec 2) : decodeCmd (cmdWord 0x10 (alg.setWidth 8)) = some (.ckInit alg) := by
  decide +revert

theorem decodeCmd_cmdWord_ckByte (b : Byte) : decodeCmd (cmdWord 0x11 b) = some (.ckByte b) := by
  simp [decodeCmd, cmdRows_eq, and_rowMask_eq_iff, beq_eq_decide]

/-- The opcode map reads a word as a command exactly where it is the command's word. -/
theorem decodeCmd_eq_some_iff (d : Word) (i : Instr) : decodeCmd d = some i ↔ commandWord i = some d := by
  refine ⟨commandWord_of_decodeCmd, fun h => ?_⟩
  cases i with
  | ckInit alg => exact Option.some.inj h ▸ decodeCmd_cmdWord_ckInit alg
  | ckByte b => exact Option.some.inj h ▸ decodeCmd_cmdWord_ckByte b
  | nop | abort | release | clrCounters => exact Option.some.inj h ▸ rfl
  | streamByte _ | csrRead _ | csrWrite _ _ => cases h

end Sys2Proof

namespace Sys2Proof.Machine

/-! ### A command word runs its command (rule R229) -/

theorem commandPart_cmdWord_ckInit (alg : BitVec 2) :
    commandPart (cmdWord 0x10 (alg.setWidth 8)) = ckInitPart alg := by
  have hhigh : (alg.setWidth 8 : Byte).extractLsb' 2 6 = 0 := by decide +revert
  have hlow : (alg.setWidth 8 : Byte).extractLsb' 0 2 = alg := by decide +revert
  funext inc s
  simp [commandPart, hhigh, hlow]

theorem commandPart_cmdWord_ckByte (b : Byte) : commandPart (cmdWord 0x11 b) = ckBytePart b := by
  funext inc s
  simp [commandPart]

/-- A command's word written to CMD does the bus part of the command. -/
theorem busOf_of_commandWord {i : Instr} {d : Word} (h : commandWord i = some d) :
    busOf i = (none, commandPart d) := by
  cases i with
  | ckInit alg => rw [← Option.some.inj h, commandPart_cmdWord_ckInit]; rfl
  | ckByte b => rw [← Option.some.inj h, commandPart_cmdWord_ckByte]; rfl
  | nop | abort | release | clrCounters => exact Option.some.inj h ▸ rfl
  | streamByte _ | csrRead _ | csrWrite _ _ => cases h

theorem presenting_of_commandWord {i : Instr} {d : Word} (h : commandWord i = some d) (s : State) :
    s.presenting i = s := by
  cases i with
  | streamByte _ => cases h
  | _ => rfl

theorem writePart_cmd {a : Addr} (ha : addressesCmd a = true) (d : Word) : writePart a d = commandPart d := by
  funext inc s
  simp only [writePart, hostWord_cmd ha]

/-- Settles O3. The CSR_WRITE and the command are one clock edge with one bus part. -/
theorem cmdWriteRunsItsCommand : Obligations.CmdWriteRunsItsCommand := by
  unfold Obligations.CmdWriteRunsItsCommand
  intro a d s i ha hi
  have hw := (decodeCmd_eq_some_iff d i).mp hi
  have hwrite : busOf (.csrWrite a d) = busOf i := by
    rw [busOf_of_commandWord hw, busOf, writePart_cmd ha]
  rw [exec_eq_clockEdge, exec_eq_clockEdge, hwrite, presenting_of_commandWord hw]
  rfl

end Sys2Proof.Machine

end

section
/-! PROOFS. Decoding the encoding of an operation gives it back (rules R90 to R96; log 9). -/

namespace Sys2Proof

/-! ### Bytes, least significant first (log 9) -/

theorem leNat_leBytes (n w : Nat) : leNat (leBytes n w) = w % 256 ^ n := by
  induction n generalizing w with
  | zero => simp [leBytes, leNat, Nat.mod_one]
  | succ n ih =>
    calc leNat (leBytes (n + 1) w)
      _ = w % 256 + 256 * (w / 256 % 256 ^ n) := by rw [leBytes, leNat, ih, BitVec.toNat_ofNat]
      _ = w % 256 ^ (n + 1) := by rw [Nat.pow_succ', Nat.mod_mul (a := 256)]

theorem leNat_leBytes_of_lt {n w : Nat} (h : w < 256 ^ n) : leNat (leBytes n w) = w := by
  rw [leNat_leBytes, Nat.mod_eq_of_lt h]

/-! ### The four formats (rules R91 to R93) -/

theorem parsePort_stream (b : Byte) : parsePort (leBytes 1 b.toNat) = .ok (.stream b) := by
  have hn : leNat (leBytes 1 b.toNat) = b.toNat := leNat_leBytes_of_lt b.isLt
  simp only [parsePort, leBytes_length, hn, BitVec.ofNat_toNat, BitVec.setWidth_eq]

theorem parsePort_read (a : Addr) : parsePort (leBytes 3 a.toNat) = .ok (.bus (.read a)) := by
  have ha := a.isLt
  have hn : leNat (leBytes 3 a.toNat) = a.toNat := leNat_leBytes_of_lt (by omega)
  simp only [parsePort, leBytes_length, hn, ha, if_true, BitVec.ofNat_toNat, BitVec.setWidth_eq]

theorem parsePort_command (w : Word) : parsePort (leBytes 4 w.toNat) = .ok (.bus (.write 0x00014 w)) := by
  have hn : leNat (leBytes 4 w.toNat) = w.toNat := leNat_leBytes_of_lt w.isLt
  simp only [parsePort, leBytes_length, hn, BitVec.ofNat_toNat, BitVec.setWidth_eq]

/-- A write's number is its kind bit, its address and its data side by side. -/
theorem parsePort_write (a : Addr) (d : Word) :
    parsePort (leBytes 7 (2 ^ 49 + a.toNat * 2 ^ 32 + d.toNat)) = .ok (.bus (.write a d)) := by
  have ha := a.isLt
  have hd := d.isLt
  generalize hv : 2 ^ 49 + a.toNat * 2 ^ 32 + d.toNat = v
  have hn : leNat (leBytes 7 v) = v := leNat_leBytes_of_lt (by omega)
  have haddr : BitVec.ofNat 17 (v / 2 ^ 32) = a :=
    BitVec.eq_of_toNat_eq (by rw [BitVec.toNat_ofNat]; omega)
  have hdata : BitVec.ofNat 32 v = d :=
    BitVec.eq_of_toNat_eq (by rw [BitVec.toNat_ofNat]; omega)
  simp only [parsePort, leBytes_length, hn, haddr, hdata, show ¬ v < 2 ^ 49 by omega, show v < 2 ^ 50 by omega,
    if_true, if_false]

/-! ### The round trip -/

theorem encode_of_commandWord {i : Instr} {w : Word} (h : commandWord i = some w) : encode i = leBytes 4 w.toNat := by
  cases i with
  | streamByte _ | csrRead _ | csrWrite _ _ => cases h
  | _ => exact Option.some.inj h ▸ rfl

theorem decode_of_parsePort {bs : List Byte} {p : PortWord} (h : parsePort bs = .ok p) :
    decode bs = .ok (decodePort p) := by
  rw [decode, h]
  rfl

/-- A command's 32 bits are a write of its word to CMD, which the opcode map reads as the command (rules R90, R94). -/
theorem decode_encode_of_commandWord {i : Instr} {w : Word} (h : commandWord i = some w) :
    decode (encode i) = .ok i := by
  have hport : decodePort (.bus (.write 0x00014 w)) = i := by
    rw [decodePort, (decodeCmd_eq_some_iff w i).mpr h]
    rfl
  rw [encode_of_commandWord h, decode_of_parsePort (parsePort_command w), hport]

theorem isCommandWord_of_decodeCmd {w : Word} {i : Instr} (h : decodeCmd w = some i) : isCommandWord w = true := by
  obtain ⟨r, hr, -⟩ := Option.map_eq_some_iff.mp h
  have hrow : ∃ r ∈ cmdRows, (w &&& r.mask == r.pattern) = true :=
    List.find?_isSome.mp (Option.isSome_of_eq_some hr)
  have hall : w &&& 0xFFFFFFFF#32 = w := BitVec.and_allOnes
  simpa [cmdRows, isCommandWord, hall, or_assoc] using hrow

/-- A well-formed CSR_WRITE is no command spelled as a bus write, so its port is read as the CSR_WRITE (rule R90). -/
theorem decodePort_write_of_wellFormed {a : Addr} {d : Word} (h : (Instr.csrWrite a d).wellFormed = true) :
    decodePort (.bus (.write a d)) = .csrWrite a d := by
  rw [decodePort]
  split
  next ha =>
    cases hd : decodeCmd d with
    | none => rfl
    | some i => simp [Instr.wellFormed, ha, isCommandWord_of_decodeCmd hd] at h
  next => rfl

/-- Settles O1. Each format's bytes spell its port word, and the port word is read as the operation. -/
theorem decodeOfEncode : Obligations.DecodeOfEncode := by
  unfold Obligations.DecodeOfEncode
  intro i hwf
  cases i with
  | streamByte b => exact decode_of_parsePort (parsePort_stream b)
  | csrRead a => exact decode_of_parsePort (parsePort_read a)
  | csrWrite a d => rw [encode, decode_of_parsePort (parsePort_write a d), decodePort_write_of_wellFormed hwf]
  | nop | abort | release | clrCounters | ckInit _ | ckByte _ => exact decode_encode_of_commandWord rfl

/-- A table word whose bytes are a well-formed operation's decodes to it. -/
theorem decodeTableWord_of_encode {nbits w : Nat} {i : Instr} (hwf : i.wellFormed = true)
    (h : tableBytes nbits w = encode i) : decodeTableWord nbits w = some i := by
  rw [decodeTableWord, h, decodeOfEncode i hwf]
  rfl

/-- Settles O2. Each word's bytes are the encoding of its operation. -/
theorem tableWordsDecode : Obligations.TableWordsDecode := by
  unfold Obligations.TableWordsDecode
  refine ⟨?_, ?_, ?_, ?_, ?_, ?_, ?_, ?_, ?_⟩ <;> exact decodeTableWord_of_encode rfl rfl

end Sys2Proof

end

section
/-! PROOFS. The strategies' updates are injective in the register and in the byte; the values of the strategies (rules R110
to R117, R128, R129). -/

namespace Sys2Proof.Machine

/-! ### The update of each strategy is injective (rule R128) -/

/-- The polynomial's bit 0 keeps the bit that the shift drops. -/
theorem ccittBit_low (c : Half) : (ccittBit c).getLsbD 0 = c.getLsbD 15 := by
  unfold ccittBit
  split
  next h => rw [h]; simp
  next h => rw [Bool.eq_false_of_not_eq_true h]; simp

theorem ccittBit_injective : Function.Injective ccittBit := by
  intro c c' h
  have htop : c.getLsbD 15 = c'.getLsbD 15 := by rw [← ccittBit_low, ← ccittBit_low, h]
  have hshift : c <<< 1 = c' <<< 1 := by
    unfold ccittBit at h
    rw [htop] at h
    split at h
    next => exact (BitVec.xor_left_inj _).mp h
    next => exact h
  apply BitVec.eq_of_getLsbD_eq
  intro i hi
  by_cases h15 : i = 15
  · rw [h15, htop]
  · have hbit := congrArg (BitVec.getLsbD · (i + 1)) hshift
    simpa [show i + 1 < 16 by omega, BitVec.getLsbD_eq_getElem hi] using hbit

/-- The polynomial's bit 15 keeps the bit that the shift drops. -/
theorem crc16Bit_high (c : Half) : (crc16Bit c).getLsbD 15 = c.getLsbD 0 := by
  unfold crc16Bit
  split
  next h => rw [h]; simp
  next h => rw [Bool.eq_false_of_not_eq_true h]; simp

theorem crc16Bit_injective : Function.Injective crc16Bit := by
  intro c c' h
  have hlow : c.getLsbD 0 = c'.getLsbD 0 := by rw [← crc16Bit_high, ← crc16Bit_high, h]
  have hshift : c >>> 1 = c' >>> 1 := by
    unfold crc16Bit at h
    rw [hlow] at h
    split at h
    next => exact (BitVec.xor_left_inj _).mp h
    next => exact h
  apply BitVec.eq_of_getLsbD_eq
  intro i hi
  cases i with
  | zero => exact hlow
  | succ i =>
    have hbit := congrArg (BitVec.getLsbD · i) hshift
    simpa [Nat.add_comm 1 i] using hbit

theorem repeat_injective {α : Type} {f : α → α} (hf : Function.Injective f) (n : Nat) :
    Function.Injective (Nat.repeat f n) := by
  induction n with
  | zero => exact Function.injective_id
  | succ n ih => exact hf.comp ih

theorem setWidth_byte_injective : Function.Injective fun b : Byte => b.setWidth 16 := by
  intro b b' h
  have hlow : (b.setWidth 16).setWidth 8 = (b'.setWidth 16).setWidth 8 := congrArg (BitVec.setWidth 8) h
  simpa using hlow

theorem high_byte_injective : Function.Injective fun b : Byte => b.setWidth 16 <<< 8 := by
  intro b b' h
  have happend : b ++ (0 : Byte) = b' ++ (0 : Byte) := by
    rw [← high_byte_eq_append, ← high_byte_eq_append]
    exact h
  have hhigh := congrArg (BitVec.extractLsb' 8 8) happend
  rwa [BitVec.extractLsb'_append_eq_left, BitVec.extractLsb'_append_eq_left] at hhigh

/-- Two registers that one byte takes to one value are equal. -/
theorem ckUpd_register_injective (alg : CkAlg) (b : Byte) (odd : Bool) :
    Function.Injective fun c => ckUpd alg c b odd := by
  intro c c' h
  cases alg with
  | ccitt => exact (BitVec.xor_left_inj _).mp (repeat_injective ccittBit_injective 8 h)
  | crc16 => exact (BitVec.xor_left_inj _).mp (repeat_injective crc16Bit_injective 8 h)
  | xorSum => cases odd <;> exact (BitVec.xor_left_inj _).mp h

/-- Two bytes that take one register to one value are equal. -/
theorem ckUpd_byte_injective (alg : CkAlg) (c : Half) (odd : Bool) :
    Function.Injective fun b => ckUpd alg c b odd := by
  intro b b' h
  cases alg with
  | ccitt =>
    exact high_byte_injective ((BitVec.xor_right_inj _).mp (repeat_injective ccittBit_injective 8 h))
  | crc16 =>
    exact setWidth_byte_injective ((BitVec.xor_right_inj _).mp (repeat_injective crc16Bit_injective 8 h))
  | xorSum =>
    cases odd with
    | false => exact high_byte_injective ((BitVec.xor_right_inj _).mp h)
    | true => exact setWidth_byte_injective ((BitVec.xor_right_inj _).mp h)

theorem ckFold_register_injective (alg : CkAlg) (j : Nat) (d : List Byte) :
    Function.Injective fun c => ckFold alg c j d := by
  induction d generalizing j with
  | nil => exact Function.injective_id
  | cons b d ih => exact (ih (j + 1)).comp (ckUpd_register_injective alg b _)

theorem ckFold_set_ne (alg : CkAlg) (c : Half) (j : Nat) {d : List Byte} {k : Nat} {b : Byte} (hk : k < d.length)
    (hb : d[k] ≠ b) : ckFold alg c j (d.set k b) ≠ ckFold alg c j d := by
  induction d generalizing c j k with
  | nil => cases hk
  | cons x d ih =>
    cases k with
    | zero =>
      intro h
      exact hb (ckUpd_byte_injective alg c _ (ckFold_register_injective alg (j + 1) d h)).symm
    | succ k => exact ih _ _ (Nat.lt_of_succ_lt_succ hk) hb

/-- Settles O52. The changed byte changes the register, and the bytes behind it keep the registers apart. -/
theorem checksumDetectsAnyOneByte : Obligations.ChecksumDetectsAnyOneByte := by
  unfold Obligations.ChecksumDetectsAnyOneByte
  exact fun _ alg _ _ _ hk hb => ckFold_set_ne alg _ 0 hk hb

/-! ### The XOR-sum, word by word (rule R116) -/

theorem append_xor_low_byte (hi lo : Byte) : (hi ++ (0 : Byte)) ^^^ lo.setWidth 16 = hi ++ lo := by
  have hlo : lo.setWidth 16 = (0 : Byte) ++ lo := by
    rw [append_byte_eq]
    simp
  rw [hlo, BitVec.xor_append]
  simp

/-- The two bytes of a word, one after the other. -/
theorem ckUpd_xorSum_word (c : Half) (b0 b1 : Byte) :
    ckUpd .xorSum (ckUpd .xorSum c b0 false) b1 true = c ^^^ (b0 ++ b1) := by
  rw [← append_xor_low_byte, ← high_byte_eq_append, ← BitVec.xor_assoc]
  rfl

/-- From an even position on, each word is XORed in as a whole. -/
theorem ckFold_xorSum (c : Half) {j : Nat} (hj : j % 2 = 0) (d : List Byte) :
    ckFold .xorSum c j d = c ^^^ xorOfWords d := by
  have heven : (j % 2 == 1) = false := by simp [hj]
  have hodd : ((j + 1) % 2 == 1) = true := by
    rw [beq_iff_eq]
    omega
  induction d using xorOfWords.induct generalizing c j with
  | case1 => simp [ckFold, xorOfWords]
  | case2 b => simp [ckFold, xorOfWords, ckUpd, updXor16, heven, high_byte_eq_append]
  | case3 b0 b1 bs ih =>
    rw [ckFold, ckFold, heven, hodd, ckUpd_xorSum_word, ih _ (by omega) (by simp; omega) (by simp; omega),
      BitVec.xor_assoc, xorOfWords]

/-- Settles O51. The sum starts at 0, at the even position 0. -/
theorem xorSumIsXorOfWords : Obligations.XorSumIsXorOfWords := by
  unfold Obligations.XorSumIsXorOfWords
  intro cfg d
  rw [cks, ckFold_xorSum _ rfl, Config.ckInit]
  exact BitVec.zero_xor

/-! ### The check values (rule R129) -/

/-- Settles O50, by evaluating the strategies. -/
theorem checkValues : Obligations.CheckValues := by
  unfold Obligations.CheckValues
  decide +kernel

end Sys2Proof.Machine

end

section
/-! PROOFS. The stream part of a step keeps the invariant: where a byte leaves the block in its frame (rules R170 to R191). -/

namespace Sys2Proof.Machine

/-! ### The geometry depends on the latched context and the length alone (rules R141, R146, R177) -/

/-- The two states agree on everything the frame's geometry is computed from. -/
structure State.SameGeometry (s t : State) : Prop where
  ctx : t.ctx = s.ctx
  flen : t.hdr.flen = s.hdr.flen

theorem State.SameGeometry.cksumStart {s t : State} (e : s.SameGeometry t) : t.cksumStart = s.cksumStart := by
  simp only [State.cksumStart, e.flen]

theorem State.SameGeometry.headerLen {s t : State} (e : s.SameGeometry t) : t.headerLen = s.headerLen := by
  simp only [State.headerLen, State.fracWidth, e.ctx]

theorem State.SameGeometry.isCfg {s t : State} (e : s.SameGeometry t) : t.isCfg = s.isCfg := by
  simp only [State.isCfg, e.ctx]

theorem State.SameGeometry.bodyStart {s t : State} (e : s.SameGeometry t) : t.bodyStart = s.bodyStart := by
  have hoff : t.cellOff = s.cellOff := by simp only [State.cellOff, e.ctx]
  have hcells : t.hasCells = s.hasCells := by simp only [State.hasCells, e.isCfg, hoff, e.headerLen]
  rw [State.bodyStart, State.bodyStart, hcells, hoff, e.headerLen]

theorem State.SameGeometry.footLen {s t : State} (e : s.SameGeometry t) : t.footLen = s.footLen := by
  rw [State.footLen, State.footLen, e.isCfg, e.ctx]

theorem State.SameGeometry.phaseOf {s t : State} (e : s.SameGeometry t) (i : Half) : t.phaseOf i = s.phaseOf i := by
  rw [State.phaseOf, State.phaseOf, State.footStart, State.footStart, e.headerLen, e.bodyStart, e.footLen, e.cksumStart]

theorem State.LengthOk.congr {s t : State} (e : s.SameGeometry t) (hcfg : t.cfg = s.cfg) (h : s.LengthOk) :
    t.LengthOk := by
  rwa [State.LengthOk, State.minLen, e.bodyStart, e.footLen, e.flen, hcfg]

theorem bodyByte_geometry (s : State) (b : Byte) : s.SameGeometry (bodyByte s b).st := ⟨rfl, capture_flen s b s.idx⟩

/-! ### A state in which a byte is processed (rules R174, R180) -/

/-- The state the stream part processes a byte in, the byte taken from its queue or port: what is left of a replay has
room behind the byte. -/
structure State.Processing (s : State) : Prop where
  inv : s.Inv
  receiving : s.ph.receiving
  room : s.rq ≠ [] → s.idx.toNat + s.rq.length ≤ 2

theorem nextByte_processing {s s' : State} {b : Byte} (hinv : s.Inv) (h : s.nextByte = some (b, s')) :
    s'.Processing := by
  have hrecv : s'.ph.receiving := (nextByte_held h).ph ▸ nextByte_receiving h
  rcases nextByte_cases h with ⟨q, hq, -, hph, rfl⟩ | ⟨hq, -, -, rfl⟩
  · obtain ⟨hlen, hreplay⟩ := hinv.replay_ok
    obtain ⟨-, h3, hlocked, hroom⟩ := hreplay (by rw [hq]; exact nofun)
    have hsum := hroom hph
    rw [hq, List.length_cons] at hlen hsum
    have hrq : State.ReplayOk { s with rq := q } :=
      ⟨(by omega : q.length ≤ 3), fun _ => ⟨.inl hph, h3, hlocked, fun _ => (by omega : s.idx.toNat + q.length ≤ 3)⟩⟩
    exact ⟨⟨hinv.cfg_wf, hinv.fbuf_wf, hinv.fbuf_below, hinv.no_structural_mismatch, hrq, hinv.position_ok⟩, hrecv,
      fun _ => (by omega : s.idx.toNat + q.length ≤ 2)⟩
  · exact ⟨hinv.withInputs none s.script, hrecv, fun hne => absurd hq hne⟩

theorem State.Processing.position {s : State} (h : s.Processing) (h4 : 4 ≤ s.idx.toNat) :
    s.LengthOk ∧ s.idx < s.hdr.flen := by
  obtain ⟨-, hpos, -, -⟩ := h.inv.position_ok
  exact ⟨(hpos h.receiving h4).1, (hpos h.receiving h4).2.1⟩

/-- A replay is left only while the block is not locked. -/
theorem State.Processing.unlocked {s : State} (h : s.Processing) (hrq : s.rq ≠ []) : s.locked = false := by
  obtain ⟨-, -, hlocked, -⟩ := h.inv.replay_ok.2 hrq
  exact hlocked

/-! ### Where a byte leaves the block (rules R142 to R152, R190, R262) -/

/-- Where the processed byte leaves the block in its frame: one index on, at the end of an accepted frame, or in the Faulted
step with a replay of bytes before its index. -/
inductive BytePosition (s t : State) : Prop where
  | advanced (rq : t.rq = s.rq) (locked : t.locked = s.locked) (cnt : t.cnt = s.cnt) (idx : t.idx.toNat = s.idx.toNat + 1)
      (receiving : t.ph.receiving) (short : t.idx.toNat ≤ 3 → t.ph = .awaitingHeader)
      (long : 4 ≤ t.idx.toNat → t.LengthOk ∧ t.idx < t.hdr.flen ∧ t.ph = t.phaseOf t.idx)
  | completed (h4 : 4 ≤ s.idx.toNat) (ph : t.ph = .complete) (rq : t.rq = s.rq) (locked : t.locked = true)
      (idx : t.idx = t.hdr.flen) (next : t.idx.toNat = s.idx.toNat + 1) (length : t.LengthOk)
  | raised (ph : t.ph = .faulted) (locked : t.locked = false) (idx : t.idx = s.idx) (err : t.err.idx = s.idx)
      (replay : List Byte) (rq : t.rq = replay ++ s.rq) (before : replay.length ≤ s.idx.toNat)
      (short : replay ≠ [] → s.idx.toNat ≤ 3)

theorem syncAccept_position {s : State} (b : Byte) (hidx : s.idx = 0) : BytePosition s (syncAccept s b).st :=
  .advanced rfl rfl rfl (by rw [hidx]; rfl) ⟨nofun, nofun⟩ (fun _ => rfl) (fun h4 => absurd h4 (by simp [syncAccept]))

theorem byte1_position {s : State} (b : Byte) (hidx : s.idx = 1) : BytePosition s (byte1 s b).st := by
  unfold byte1
  dsimp only
  split
  next => exact .raised rfl rfl rfl hidx.symm [b] rfl (by simp [hidx]) (by simp [hidx])
  split
  next => exact .advanced rfl rfl rfl (by rw [hidx]; rfl) ⟨nofun, nofun⟩ (fun _ => rfl) (fun h4 => absurd h4 (by simp))
  next => exact .raised rfl rfl rfl hidx.symm [b] rfl (by simp [hidx]) (by simp [hidx])

theorem byte2_position {s : State} (b : Byte) (hidx : s.idx = 2) : BytePosition s (byte2 s b).st :=
  .advanced rfl rfl rfl (by rw [hidx]; rfl) ⟨nofun, nofun⟩ (fun _ => rfl) (fun h4 => absurd h4 (by simp [byte2]))

theorem State.LengthOk.four_lt_flen {s : State} (h : s.LengthOk) : 4 < s.hdr.flen.toNat := by
  have := h.four_le_cksumStart
  have := h.bodyStart_le_cksumStart.1
  omega

theorem byte3_position {s : State} (b : Byte) (hidx : s.idx = 3) : BytePosition s (byte3 s b).st := by
  unfold byte3
  dsimp only
  split
  next => exact .raised rfl rfl rfl hidx.symm _ rfl (by simp [hidx]) (by simp [hidx])
  next hmin =>
  split
  next => exact .raised rfl rfl rfl hidx.symm _ rfl (by simp [hidx]) (by simp [hidx])
  next hmax =>
    have hok := And.intro (BitVec.not_lt.mp hmin) (Nat.not_lt.mp hmax)
    refine .advanced rfl rfl rfl (by rw [hidx]; rfl) (phaseOf_receiving _ _) (fun h3 => absurd h3 (by simp))
      (fun _ => ⟨hok, ?_, rfl⟩)
    exact BitVec.lt_def.mpr (State.LengthOk.four_lt_flen hok)

theorem bodyByte_position {s : State} (b : Byte) (h4 : 4 ≤ s.idx.toNat) (hok : s.LengthOk)
    (hlt : s.idx < s.hdr.flen - 1) : BytePosition s (bodyByte s b).st := by
  have e := bodyByte_geometry s b
  have hidx : (bodyByte s b).st.idx = s.idx + 1 := rfl
  refine .advanced rfl rfl rfl ?_ (phaseOf_receiving _ _) (fun h3 => ?_) (fun _ => ⟨hok.congr e rfl, ?_, (e.phaseOf _).symm⟩)
  · bv_omega
  · bv_omega
  · have hflen := hok.four_lt_flen
    rw [e.flen, hidx]
    bv_omega

theorem lastByte_position {s : State} (b : Byte) (h4 : 4 ≤ s.idx.toNat) (hok : s.LengthOk)
    (hlast : s.idx.toNat + 1 = s.hdr.flen.toNat) : BytePosition s (lastByte s b).st := by
  unfold lastByte
  dsimp only
  split
  next => exact .completed h4 rfl rfl rfl rfl hlast.symm hok
  next => exact .raised rfl rfl rfl rfl [] rfl (Nat.zero_le _) (absurd rfl)

theorem frameByte_position {s : State} (b : Byte) (h : s.Processing) : BytePosition s (frameByte s b).st := by
  unfold frameByte
  split
  next h0 => exact syncAccept_position b h0
  split
  next h1 => exact byte1_position b h1
  split
  next h2 => exact byte2_position b h2
  split
  next h3 => exact byte3_position b h3
  have h4 : 4 ≤ s.idx.toNat := by bv_omega
  obtain ⟨hok, hlt⟩ := h.position h4
  split
  next hbody => exact bodyByte_position b h4 hok hbody
  next hlast => exact lastByte_position b h4 hok (by bv_omega)

/-! ### The stream part keeps the invariant -/

theorem BytePosition.replayOk {s t : State} (h : s.Processing) (hpos : BytePosition s t) : t.ReplayOk := by
  have hlen := h.inv.replay_ok.1
  cases hpos with
  | advanced rq locked cnt idx receiving short long =>
    rw [State.ReplayOk, rq]
    refine ⟨hlen, fun hne => ?_⟩
    have hroom := h.room hne
    have hpos : 0 < s.rq.length := List.length_pos_of_ne_nil hne
    exact ⟨.inl (short (by omega)), by omega, locked.trans (h.unlocked hne), fun _ => by omega⟩
  | completed h4 ph rq locked idx next length =>
    rw [State.ReplayOk, rq]
    refine ⟨hlen, fun hne => ?_⟩
    have hroom := h.room hne
    omega
  | raised ph locked idx err replay rq before short =>
    rw [State.ReplayOk, rq, List.length_append, idx, ph]
    have hshort : replay ++ s.rq ≠ [] → s.idx.toNat ≤ 3 := by
      intro hne
      by_cases hr : replay = []
      · have hroom := h.room (by simpa [hr] using hne)
        omega
      · exact short hr
    refine ⟨?_, fun hne => ⟨.inr rfl, hshort hne, locked, nofun⟩⟩
    by_cases hne : replay ++ s.rq = []
    · rw [← List.length_append, hne]
      exact Nat.zero_le 3
    · have h3 := hshort hne
      by_cases hq : s.rq = []
      · rw [hq, List.length_nil]
        omega
      · have hroom := h.room hq
        omega

theorem BytePosition.positionOk {s t : State} (hpos : BytePosition s t) : t.PositionOk := by
  cases hpos with
  | advanced rq locked cnt idx receiving short long =>
    exact ⟨fun _ => short, fun _ => long, fun hc => absurd hc receiving.1, fun hf => absurd hf receiving.2⟩
  | completed h4 ph rq locked idx next length =>
    rw [State.PositionOk, ph]
    exact ⟨fun hr => absurd rfl hr.1, fun hr => absurd rfl hr.1, fun _ => ⟨locked, by omega, length, idx⟩, nofun⟩
  | raised ph locked idx err replay rq before short =>
    rw [State.PositionOk, ph]
    exact ⟨fun hr => absurd rfl hr.2, fun hr => absurd rfl hr.2, nofun, fun _ => ⟨locked, idx.trans err.symm⟩⟩

theorem frameByte_inv {s : State} (b : Byte) (h : s.Processing) (hfits : s.idx.toNat < s.cfg.fbufBytes) :
    (frameByte s b).st.Inv := by
  have hset := frameByte_settings s b
  have hpos := frameByte_position b h
  have hfbuf := frameByte_fbuf s b
  exact
    { cfg_wf := hset.cfg ▸ h.inv.cfg_wf
      fbuf_wf := hfbuf ▸ Memory.wf_write _ _ _ h.inv.fbuf_wf
      fbuf_below := by
        rw [hset.cfg, hfbuf]
        exact Memory.below_write _ _ _ _ hfits h.inv.fbuf_below
      no_structural_mismatch := hset.events ▸ h.inv.no_structural_mismatch
      replay_ok := hpos.replayOk h
      position_ok := hpos.positionOk }

theorem huntDiscard_inv {s : State} (b : Byte) (h : s.Processing) (hidx : s.idx = 0) : (huntDiscard s b).st.Inv := by
  obtain ⟨hcfg, hwf, hbelow, hmis, hreplay, hpos⟩ := h.inv
  unfold huntDiscard
  dsimp only
  split
  next =>
    have hraised : BytePosition s (raiseFault { s with cnt := s.cnt.bump .skipped } .malformedHeader .badSync b 0 []).st :=
      .raised rfl rfl rfl hidx.symm [] rfl (Nat.zero_le _) (absurd rfl)
    exact ⟨hcfg, hwf, hbelow, hmis, hraised.replayOk h, hraised.positionOk⟩
  next => exact ⟨hcfg, hwf, hbelow, hmis, hreplay, hpos⟩

theorem faultRecover_inv {s : State} (h : s.Inv) (hf : s.ph = .faulted) : (faultRecover s).Inv := by
  obtain ⟨hlen, -⟩ := h.replay_ok
  obtain ⟨-, -, -, hfaulted⟩ := h.position_ok
  exact
    { cfg_wf := h.cfg_wf
      fbuf_wf := h.fbuf_wf
      fbuf_below := h.fbuf_below
      no_structural_mismatch := h.no_structural_mismatch
      replay_ok := ⟨hlen, fun _ => ⟨.inl rfl, by simp, (hfaulted hf).1, fun _ => by simpa using hlen⟩⟩
      position_ok := ⟨fun _ _ => rfl, fun _ h4 => absurd h4 (by simp), nofun, nofun⟩ }

/-- The stream part of a step keeps the invariant. -/
theorem streamPart_keeps_inv {s : State} {r : StreamResult} (h : s.Inv) (hr : streamPart s = .ok r) : r.st.Inv := by
  rcases streamPart_cases hr with ⟨hf, rfl⟩ | ⟨-, -, rfl⟩ | ⟨b, s', -, hn, ha, rfl⟩ | ⟨b, s', -, hn, -, hfits, rfl⟩
  · exact faultRecover_inv h hf
  · exact h
  · exact huntDiscard_inv b (nextByte_processing h hn) ((acceptsIntoFrame_eq_false_iff s' b).mp ha).1
  · exact frameByte_inv b (nextByte_processing h hn) hfits

end Sys2Proof.Machine

end

section
/-! PROOFS. The bus part of a step keeps the invariant, and so does every operation (rules R221, R229). -/

namespace Sys2Proof.Machine

/-! ### What no bus part adds: a replay byte or an event -/

/-- The replay queue is kept or emptied, and no event bit is set. -/
structure State.AddsNothing (s t : State) : Prop where
  rq : t.rq = s.rq ∨ t.rq = []
  events : ∀ k, s.events.getLsbD k = false → t.events.getLsbD k = false

theorem releasePart_addsNothing (inc : List Counter) (s : State) : s.AddsNothing (releasePart inc s).1 := by
  unfold releasePart
  split <;> exact ⟨.inl rfl, fun _ => id⟩

theorem ckInitPart_addsNothing (c : BitVec 2) (inc : List Counter) (s : State) :
    s.AddsNothing (ckInitPart c inc s).1 := by
  unfold ckInitPart
  split <;> exact ⟨.inl rfl, fun _ => id⟩

theorem commandPart_addsNothing (d : Word) (inc : List Counter) (s : State) :
    s.AddsNothing (commandPart d inc s).1 := by
  have h := commandPart_result d inc s
  generalize commandPart d inc s = r at h ⊢
  cases h with
  | abort => exact ⟨.inr rfl, fun _ => id⟩
  | release => exact releasePart_addsNothing inc s
  | ckInit c => exact ckInitPart_addsNothing c inc s
  | _ => exact ⟨.inl rfl, fun _ => id⟩

theorem eventsWrite_addsNothing (s : State) (d : Word) : s.AddsNothing (eventsWrite s d).1 :=
  ⟨.inl rfl, fun k hk => by simp [eventsWrite, clearEvents, hk]⟩

theorem lutWrite_addsNothing (s : State) (i : Fin 8) (d : Word) : s.AddsNothing (lutWrite s i d).1 := by
  unfold lutWrite
  split <;> exact ⟨.inl rfl, fun _ => id⟩

theorem vcfgWrite_addsNothing (s : State) (v : Fin 5) (d : Word) : s.AddsNothing (vcfgWrite s v d).1 := by
  unfold vcfgWrite
  split <;> exact ⟨.inl rfl, fun _ => id⟩

theorem vtmapWrite_addsNothing (s : State) (v : Fin 5) (d : Word) : s.AddsNothing (vtmapWrite s v d).1 := by
  unfold vtmapWrite
  split <;> exact ⟨.inl rfl, fun _ => id⟩

theorem writePart_addsNothing (a : Addr) (d : Word) (inc : List Counter) (s : State) :
    s.AddsNothing (writePart a d inc s).1 := by
  unfold writePart
  split
  case h_2 => exact eventsWrite_addsNothing s d
  case h_4 => exact commandPart_addsNothing d inc s
  case h_5 i _ => exact lutWrite_addsNothing s i d
  case h_6 v _ => exact vcfgWrite_addsNothing s v d
  case h_7 v _ => exact vtmapWrite_addsNothing s v d
  all_goals exact ⟨.inl rfl, fun _ => id⟩

theorem busOf_addsNothing (i : Instr) (inc : List Counter) (s : State) : s.AddsNothing ((busOf i).2 inc s).1 := by
  cases i with
  | csrWrite a d => exact writePart_addsNothing a d inc s
  | abort => exact ⟨.inr rfl, fun _ => id⟩
  | release => exact releasePart_addsNothing inc s
  | ckInit c => exact ckInitPart_addsNothing c inc s
  | _ => exact ⟨.inl rfl, fun _ => id⟩

/-! ### The bus part keeps the invariant -/

/-- Keeping the position in the frame keeps the bounds on it, with the replay queue kept or emptied. -/
theorem State.Inv.replay_position_congr {s t : State} (h : s.Inv) (f : s.SameFrame t) (hrq : t.rq = s.rq ∨ t.rq = [])
    (hph : t.ph = s.ph) (hidx : t.idx = s.idx) (hlocked : t.locked = s.locked) : t.ReplayOk ∧ t.PositionOk := by
  have e : s.SameGeometry t := ⟨f.ctx, congrArg Header.flen f.hdr⟩
  constructor
  · rcases hrq with hrq | hrq
    · rw [State.ReplayOk, hrq, hph, hidx, hlocked]
      exact h.replay_ok
    · rw [State.ReplayOk, hrq]
      exact ⟨Nat.zero_le 3, fun hne => absurd rfl hne⟩
  · obtain ⟨hshort, hlong, hcomplete, hfaulted⟩ := h.position_ok
    rw [State.PositionOk, hph, hidx, hlocked, f.err, e.flen, e.phaseOf]
    refine ⟨hshort, fun hr h4 => ?_, fun hc => ?_, hfaulted⟩
    · obtain ⟨hok, hpos⟩ := hlong hr h4
      exact ⟨hok.congr e f.cfg, hpos⟩
    · obtain ⟨hl, h4, hok, hend⟩ := hcomplete hc
      exact ⟨hl, h4, hok.congr e f.cfg, hend⟩

/-- Back to hunting, the replay queue kept or emptied: RELEASE and ABORT (rules R231, R232). -/
theorem State.Inv.replay_position_hunting {s t : State} (h : s.Inv) (hrq : t.rq = s.rq ∨ t.rq = [])
    (hph : t.ph = .awaitingHeader) (hidx : t.idx = 0) (hlocked : t.locked = s.locked ∨ t.locked = false) :
    t.ReplayOk ∧ t.PositionOk := by
  obtain ⟨hlen, hreplay⟩ := h.replay_ok
  rw [State.ReplayOk, State.PositionOk, hph, hidx]
  refine ⟨⟨?_, fun hne => ?_⟩, fun _ _ => rfl, fun _ h4 => absurd h4 (by simp), nofun, nofun⟩
  · rcases hrq with hrq | hrq <;> simp [hrq, hlen]
  · have hkept : t.rq = s.rq := hrq.resolve_right hne
    obtain ⟨-, -, hunlocked, -⟩ := hreplay (hkept ▸ hne)
    exact ⟨.inl rfl, by simp, hlocked.elim (·.trans hunlocked) id, fun _ => by simpa [hkept] using hlen⟩

theorem busOf_keeps_inv (i : Instr) (inc : List Counter) {s : State} (h : s.Inv) : ((busOf i).2 inc s).1.Inv := by
  have f := busOf_frame i inc s
  obtain ⟨hrq, hev⟩ := busOf_addsNothing i inc s
  have hpos : ((busOf i).2 inc s).1.ReplayOk ∧ ((busOf i).2 inc s).1.PositionOk := by
    cases busOf_progress i inc s with
    | kept e => exact h.replay_position_congr f hrq e.ph e.idx e.locked
    | frameEnded ph idx locked _ => exact h.replay_position_hunting hrq ph idx locked
    | countersCleared _ ph idx locked => exact h.replay_position_congr f hrq ph idx locked
  exact
    { cfg_wf := f.cfg ▸ h.cfg_wf
      fbuf_wf := f.fbuf ▸ h.fbuf_wf
      fbuf_below := by
        rw [f.cfg, f.fbuf]
        exact h.fbuf_below
      no_structural_mismatch := hev 4 h.no_structural_mismatch
      replay_ok := hpos.1
      position_ok := hpos.2 }

/-- No event raised is the structural mismatch, EVENTS[4] (rule R255). -/
theorem mergeEvents_four {events : BitVec 6} (h : events.getLsbD 4 = false) (ev : Option StreamEvent) (e : Bool) :
    (mergeEvents events ev e).getLsbD 4 = false := by
  have hev : (evBit ev).getLsbD 4 = false := by
    rcases ev with _ | _ | _ | _ | _ <;> rfl
  have hbus : (busErrBit e).getLsbD 4 = false := by
    cases e <;> rfl
  simp only [mergeEvents, BitVec.getLsbD_or, h, hev, hbus, Bool.or_false]

theorem finish_keeps_inv {s : State} (h : s.Inv) (ev : Option StreamEvent) (e : Bool) (o : Outputs) :
    (s.finish ev e o).Inv :=
  ⟨h.cfg_wf, h.fbuf_wf, h.fbuf_below, mergeEvents_four h.no_structural_mismatch ev e, h.replay_ok, h.position_ok⟩

theorem State.Inv.presenting {s : State} (h : s.Inv) (i : Instr) : (s.presenting i).Inv := by
  obtain ⟨o, ho⟩ := presenting_eq s i
  exact ho ▸ h.withInputs o s.script

/-- Every operation keeps the invariant. -/
theorem exec_keeps_inv {i : Instr} {s t : State} (h : s.Inv) (he : exec i s = .next t) : t.Inv := by
  obtain ⟨r, hr, rfl⟩ := exec_next he
  exact finish_keeps_inv (busOf_keeps_inv i r.inc (streamPart_keeps_inv (h.presenting i) hr)) _ _ _

end Sys2Proof.Machine

end

section
/-! PROOFS. The standalone checksum engine's commands, beside the idle step of the same state (rules R125, R126). -/

namespace Sys2Proof.Machine

/-! ### CK_INIT and CK_BYTE beside the idle step (rules R125, R126) -/

theorem exec_ckInit_of_stream {s : State} {r : StreamResult} (hr : streamPart s = .ok r) {c : BitVec 2} {alg : CkAlg}
    (hc : ckAlgOfCode c = some alg) :
    exec (.ckInit c) s =
      .next
        { r.st.finish r.ev false (s.outputs none) with
          engine := { alg := alg, acc := Config.ckInit s.cfg alg, cnt := 0 } } := by
  have hpart : ckInitPart c r.inc r.st =
      ({ r.st with engine := { alg := alg, acc := Config.ckInit s.cfg alg, cnt := 0 } }, false) := by
    rw [← (streamPart_settings hr).cfg]
    simp only [ckInitPart, hc]
  rw [exec_of_stream (i := .ckInit c) hr]
  simp only [busOf, hpart]
  rfl

theorem exec_ckByte_of_stream {s : State} {r : StreamResult} (hr : streamPart s = .ok r) (b : Byte) :
    exec (.ckByte b) s =
      .next { r.st.finish r.ev false (s.outputs none) with engine := s.engine.feed b } := by
  rw [← (streamPart_settings hr).engine]
  exact exec_of_stream (i := .ckByte b) hr

/-- The position's bit 0 is its parity. -/
theorem getLsbD_zero_eq_odd {n : Nat} (x : BitVec n) : x.getLsbD 0 = (x.toNat % 2 == 1) := by
  rw [BitVec.getLsbD, Nat.testBit_zero]
  rfl

theorem updXor16_eq (c : Half) (b : Byte) (odd : Bool) :
    updXor16 c b odd = if odd then c ^^^ ((0 : Byte) ++ b) else c ^^^ (b ++ (0 : Byte)) := by
  have hlow : b.setWidth 16 = (0 : Byte) ++ b := by
    rw [append_byte_eq]
    simp
  rw [updXor16, high_byte_eq_append, hlow]

/-- Settles O27. The engine's update is written out for each algorithm. -/
theorem ckByteEffect : Obligations.CkByteEffect := by
  unfold Obligations.CkByteEffect
  intro b s hfits
  obtain ⟨r, hr⟩ := streamPart_of_fits hfits
  refine ⟨_, idleEdge_of_stream hr, (exec_ckByte_of_stream hr b).trans ?_⟩
  generalize s.engine = e
  obtain ⟨alg, acc, cnt⟩ := e
  have hcnt : cnt + 1 = BitVec.ofNat 32 ((cnt.toNat + 1) % 2 ^ 32) := by
    apply BitVec.eq_of_toNat_eq
    simp
  cases alg with
  | ccitt => simp only [Engine.feed, ckUpd, hcnt]
  | crc16 => simp only [Engine.feed, ckUpd, hcnt]
  | xorSum =>
    simp only [Engine.feed, ckUpd, hcnt, updXor16_eq, getLsbD_zero_eq_odd]
    rcases Nat.mod_two_eq_zero_or_one cnt.toNat with h | h <;> simp [h]

/-! ### Refused words (rules R125, R228, R258) -/

/-- A write refused in every state is the idle step with BUS_ERR. -/
theorem busErrOnly_of_refused {a : Addr} {d : Word} {s : State} (hfits : s.fits)
    (h : writePart a d = fun _ => refuseWrite) : s.BusErrOnly (exec (.csrWrite a d) s) := by
  obtain ⟨r, hr⟩ := streamPart_of_fits hfits
  refine ⟨_, idleEdge_of_stream hr, ?_⟩
  have hmerge : mergeEvents r.st.events r.ev true = mergeEvents r.st.events r.ev false ||| 0x20 := by
    simp [mergeEvents, busErrBit]
  rw [exec_of_stream (i := .csrWrite a d) hr]
  simp only [busOf, h, refuseWrite, finish_events, ← hmerge]
  rfl

theorem extract_of_extract (d : Word) {lo len k n : Nat} (h : k + n ≤ len) :
    (d.extractLsb' lo len).extractLsb' k n = d.extractLsb' (lo + k) n := by
  apply BitVec.eq_of_getLsbD_eq
  intro i hi
  simp [hi, show k + i < len by omega, Nat.add_assoc]

/-- The bits above CK_INIT's algorithm are MBZ and ARG[7:2]. -/
theorem ckInit_upper_bits (d : Word) :
    d.extractLsb' 10 22 = d.extractLsb' 16 16 ++ (d.extractLsb' 8 8).extractLsb' 2 6 := by
  rw [extract_of_extract d (by omega)]
  have happend : d.extractLsb' 16 16 ++ d.extractLsb' (8 + 2) 6 = d.extractLsb' 10 22 :=
    BitVec.extractLsb'_append_extractLsb'_eq_extractLsb' rfl
  exact happend.symm

/-- A word with CK_INIT's opcode, by its MBZ and ARG (rules R125, R229). -/
theorem commandPart_ckInit {d : Word} (hop : d.extractLsb' 0 8 = 0x10) (inc : List Counter) (s : State) :
    commandPart d inc s =
      if d.extractLsb' 16 16 ≠ 0 then refuseWrite s
      else if (d.extractLsb' 8 8).extractLsb' 2 6 ≠ 0 then refuseWrite s
      else ckInitPart (d.extractLsb' 8 2) inc s := by
  have halg : (d.extractLsb' 8 8).extractLsb' 0 2 = d.extractLsb' 8 2 := extract_of_extract d (by omega)
  unfold commandPart
  rw [hop, ← halg]
  rfl

/-- A CK_INIT word with the code 3, nonzero ARG[7:2] or nonzero MBZ is refused (rule R125). -/
theorem commandPart_ckInit_refused {d : Word} (hop : d.extractLsb' 0 8 = 0x10)
    (h : d.extractLsb' 8 2 = 3 ∨ d.extractLsb' 10 22 ≠ 0) : commandPart d = fun _ => refuseWrite := by
  funext inc s
  rw [commandPart_ckInit hop]
  split
  next => rfl
  next hmbz =>
  split
  next => rfl
  next harg =>
    have hzero : d.extractLsb' 10 22 = 0 := by
      rw [ckInit_upper_bits, not_not.mp hmbz, not_not.mp harg]
      rfl
    rw [h.resolve_right (not_not.mpr hzero)]
    rfl

/-- Settles O26. A legal code restarts the engine beside the idle step; every other CK_INIT word is refused. -/
theorem ckInitEffect : Obligations.CkInitEffect := by
  unfold Obligations.CkInitEffect
  intro s hfits
  constructor
  · obtain ⟨r, hr⟩ := streamPart_of_fits hfits
    exact ⟨_, idleEdge_of_stream hr, exec_ckInit_of_stream hr rfl, exec_ckInit_of_stream hr rfl,
      exec_ckInit_of_stream hr rfl⟩
  · intro a d ha hop hbad
    exact busErrOnly_of_refused hfits ((writePart_cmd ha d).trans (commandPart_ckInit_refused hop hbad))

/-! ### The engine over a sequence of bytes (rule R126) -/

/-- Feeding the bytes is the strategy's fold from the engine's position on. -/
theorem foldl_feed (alg : CkAlg) (acc : Half) (j : Nat) (d : List Byte) :
    d.foldl Engine.feed { alg := alg, acc := acc, cnt := BitVec.ofNat 32 j } =
      { alg := alg, acc := ckFold alg acc j d, cnt := BitVec.ofNat 32 (j + d.length) } := by
  induction d generalizing acc j with
  | nil => rfl
  | cons b d ih =>
    have hodd : (BitVec.ofNat 32 j).getLsbD 0 = (j % 2 == 1) := by
      rw [getLsbD_zero_eq_odd, BitVec.toNat_ofNat, Nat.mod_mod_of_dvd _ (by decide)]
    have hcnt : BitVec.ofNat 32 j + 1 = BitVec.ofNat 32 (j + 1) := (BitVec.ofNat_add j 1).symm
    rw [List.foldl_cons, Engine.feed, hodd, hcnt, ih, ckFold, List.length_cons, Nat.add_right_comm, Nat.add_assoc]

/-- CK_BYTE of each byte of a sequence completes and feeds the engine, in every state of the invariant. -/
theorem execAll_ckByte {s : State} (h : s.Inv) (d : List Byte) :
    ∃ t, execAll (d.map .ckByte) s = .next t ∧ t.engine = d.foldl Engine.feed s.engine := by
  induction d generalizing s with
  | nil => exact ⟨s, rfl, rfl⟩
  | cons b d ih =>
    obtain ⟨r, hr⟩ := streamPart_of_fits h.fits
    have he := exec_ckByte_of_stream hr b
    obtain ⟨t, ht, hengine⟩ := ih (exec_keeps_inv h he)
    exact ⟨t, by simpa only [List.map_cons, execAll, he] using ht, hengine⟩

theorem ckAlgOfCode_code (alg : CkAlg) : ckAlgOfCode alg.code = some alg := by
  cases alg <;> rfl

/-- Settles O28, by the invariant carried through each command and the engine's fold over the sequence. -/
theorem engineComputesTheStrategy : Obligations.EngineComputesTheStrategy := by
  unfold Obligations.EngineComputesTheStrategy
  intro alg d s hinv
  obtain ⟨r, hr⟩ := streamPart_of_fits hinv.fits
  have he := exec_ckInit_of_stream hr (ckAlgOfCode_code alg)
  obtain ⟨t, ht, hengine⟩ := execAll_ckByte (exec_keeps_inv hinv he) d
  refine ⟨t, by simpa only [execAll, he] using ht, ?_⟩
  rw [hengine]
  exact (foldl_feed alg _ 0 d).trans (by rw [Nat.zero_add, cks])

end Sys2Proof.Machine

end

section
/-! PROOFS. The engine and the rest of the block do not read each other: the stream part (rules R123, R124). -/

namespace Sys2Proof.Machine

/-! ### A state with another engine -/

/-- The state with the engine replaced. -/
def State.withEngine (s : State) (e : Engine) : State := { s with engine := e }

/-- The stream part's result with the engine replaced. -/
def StreamResult.withEngine (r : StreamResult) (e : Engine) : StreamResult := { r with st := r.st.withEngine e }

theorem withEngine_ite {c : Prop} [Decidable c] (r r' : StreamResult) (e : Engine) :
    (if c then r else r').withEngine e = if c then r.withEngine e else r'.withEngine e :=
  apply_ite (StreamResult.withEngine · e) c r r'

/-! ### The stream part does not read the engine -/

theorem byte1_withEngine (s : State) (b : Byte) (e : Engine) :
    byte1 (s.withEngine e) b = (byte1 s b).withEngine e := by
  have hlookup : (s.withEngine e).lookup (s.withEngine e).hdr.sync (typeNibble b) = s.lookup s.hdr.sync (typeNibble b) := rfl
  unfold byte1
  rw [hlookup]
  dsimp only
  split
  next => rfl
  next => rw [withEngine_ite]; rfl

theorem byte3_withEngine (s : State) (b : Byte) (e : Engine) :
    byte3 (s.withEngine e) b = (byte3 s b).withEngine e := by
  unfold byte3
  dsimp only
  rw [withEngine_ite, withEngine_ite]
  rfl

theorem lastByte_withEngine (s : State) (b : Byte) (e : Engine) :
    lastByte (s.withEngine e) b = (lastByte s b).withEngine e := by
  unfold lastByte
  dsimp only
  rw [withEngine_ite]
  rfl

theorem frameByte_withEngine (s : State) (b : Byte) (e : Engine) :
    frameByte (s.withEngine e) b = (frameByte s b).withEngine e := by
  unfold frameByte
  simp only [withEngine_ite, byte1_withEngine, byte3_withEngine, lastByte_withEngine]
  rfl

theorem huntDiscard_withEngine (s : State) (b : Byte) (e : Engine) :
    huntDiscard (s.withEngine e) b = (huntDiscard s b).withEngine e := by
  unfold huntDiscard
  dsimp only
  rw [withEngine_ite]
  rfl

theorem nextByte_withEngine (s : State) (e : Engine) :
    (s.withEngine e).nextByte = s.nextByte.map fun p => (p.1, p.2.withEngine e) := by
  have hrq : (s.withEngine e).rq = s.rq := rfl
  unfold State.nextByte
  rw [hrq]
  split
  next b q _ =>
    change (if (s.en && s.ph == .awaitingHeader) = true then some (b, ({ s with rq := q } : State).withEngine e)
      else none) = _
    split <;> rfl
  next =>
    change (if s.inReady = true then s.offer.map fun b => (b, ({ s with offer := none } : State).withEngine e)
      else none) = _
    split
    next => rw [Option.map_map]; rfl
    next => rfl

theorem streamPart_withEngine {s : State} {r : StreamResult} (h : streamPart s = .ok r) (e : Engine) :
    streamPart (s.withEngine e) = .ok (r.withEngine e) := by
  have hph : (s.withEngine e).ph = s.ph := rfl
  rcases streamPart_cases h with ⟨hf, rfl⟩ | ⟨hf, hn, rfl⟩ | ⟨b, s', hf, hn, ha, rfl⟩ | ⟨b, s', hf, hn, ha, hfits, rfl⟩
  · exact streamPart_faulted (hph.trans hf)
  · exact streamPart_none (hph ▸ hf) (by rw [nextByte_withEngine, hn]; rfl)
  · have hn' : (s.withEngine e).nextByte = some (b, s'.withEngine e) := by rw [nextByte_withEngine, hn]; rfl
    have ha' : (s'.withEngine e).acceptsIntoFrame b = false := ha
    rw [streamPart_byte (hph ▸ hf) hn', process_discarded ha', huntDiscard_withEngine]
  · have hn' : (s.withEngine e).nextByte = some (b, s'.withEngine e) := by rw [nextByte_withEngine, hn]; rfl
    have ha' : (s'.withEngine e).acceptsIntoFrame b = true := ha
    rw [streamPart_byte (hph ▸ hf) hn', process_accepted ha' hfits, frameByte_withEngine]

end Sys2Proof.Machine

end

section
/-! PROOFS. The engine and the rest of the block do not read each other: the bus part and whole steps (rules R123, R124). -/

namespace Sys2Proof.Machine

/-! ### The bus part and the engine -/

/-- The bus part keeps the engine and the rest of the block apart: outside the engine it does the same with another engine,
and in the engine the same from every state of that engine and CRC16_INIT. -/
structure BusPart.KeepsApart (part : BusPart) : Prop where
  rest : ∀ inc s e, ∃ e', part inc (s.withEngine e) = ((part inc s).1.withEngine e', (part inc s).2)
  engine : ∀ inc inc' s s', s.engine = s'.engine → s.cfg.crc16Init = s'.cfg.crc16Init →
    (part inc s).1.engine = (part inc' s').1.engine

/-- A bus part that leaves the engine alone and does not read it. -/
theorem BusPart.KeepsApart.of_engine_kept {part : BusPart}
    (hrest : ∀ inc s e, part inc (s.withEngine e) = ((part inc s).1.withEngine e, (part inc s).2))
    (hengine : ∀ inc s, (part inc s).1.engine = s.engine) : part.KeepsApart where
  rest inc s e := ⟨e, hrest inc s e⟩
  engine inc inc' s s' he _ := (hengine inc s).trans (he.trans (hengine inc' s').symm)

theorem BusPart.KeepsApart.ite {c : Prop} [Decidable c] {part part' : BusPart} (h : part.KeepsApart)
    (h' : part'.KeepsApart) :
    BusPart.KeepsApart fun inc s => if c then part inc s else part' inc s := by
  by_cases hc : c
  · simpa only [hc, if_true] using h
  · simpa only [hc, if_false] using h'

theorem refuseWrite_keepsApart : BusPart.KeepsApart fun _ => refuseWrite :=
  .of_engine_kept (fun _ _ _ => rfl) fun _ _ => rfl

theorem nopPart_keepsApart : nopPart.KeepsApart := .of_engine_kept (fun _ _ _ => rfl) fun _ _ => rfl

theorem abortPart_keepsApart : abortPart.KeepsApart := .of_engine_kept (fun _ _ _ => rfl) fun _ _ => rfl

theorem clrCountersPart_keepsApart : clrCountersPart.KeepsApart := .of_engine_kept (fun _ _ _ => rfl) fun _ _ => rfl

theorem readPart_keepsApart : readPart.KeepsApart := .of_engine_kept (fun _ _ _ => rfl) fun _ _ => rfl

theorem releasePart_keepsApart : releasePart.KeepsApart := by
  refine .of_engine_kept (fun inc s e => ?_) fun inc s => ?_
  · have hph : (s.withEngine e).ph = s.ph := rfl
    unfold releasePart
    rw [hph]
    split <;> rfl
  · unfold releasePart
    split <;> rfl

theorem ckInitPart_keepsApart (c : BitVec 2) : (ckInitPart c).KeepsApart := by
  unfold ckInitPart
  cases ckAlgOfCode c with
  | none => exact refuseWrite_keepsApart
  | some alg =>
    exact
      { rest := fun _ _ _ => ⟨_, rfl⟩
        engine := fun _ _ s s' _ hinit => by cases alg <;> simp only [Config.ckInit, hinit] }

theorem ckBytePart_keepsApart (b : Byte) : (ckBytePart b).KeepsApart where
  rest _ _ _ := ⟨_, rfl⟩
  engine _ _ _ _ he _ := congrArg (Engine.feed · b) he

/-- Which command a word runs is told by the word alone. -/
theorem commandPart_keepsApart (d : Word) : (commandPart d).KeepsApart :=
  .ite refuseWrite_keepsApart <|
    .ite (.ite refuseWrite_keepsApart nopPart_keepsApart) <|
      .ite (.ite refuseWrite_keepsApart abortPart_keepsApart) <|
        .ite (.ite refuseWrite_keepsApart releasePart_keepsApart) <|
          .ite (.ite refuseWrite_keepsApart clrCountersPart_keepsApart) <|
            .ite (.ite refuseWrite_keepsApart (ckInitPart_keepsApart _)) <|
              .ite (ckBytePart_keepsApart _) refuseWrite_keepsApart

/-- A table write, refused while EN = 1 (rules R225 to R227). -/
theorem BusPart.KeepsApart.locked {write : State → State × Bool}
    (hrest : ∀ s e, write (s.withEngine e) = ((write s).1.withEngine e, (write s).2))
    (hengine : ∀ s, (write s).1.engine = s.engine) :
    BusPart.KeepsApart fun _ s => if s.en then refuseWrite s else write s := by
  refine .of_engine_kept (fun _ s e => ?_) fun _ s => ?_
  · have hen : (s.withEngine e).en = s.en := rfl
    rw [hen, hrest]
    split <;> rfl
  · split
    next => rfl
    next => exact hengine s

theorem lutWrite_keepsApart (i : Fin 8) (d : Word) : BusPart.KeepsApart fun _ s => lutWrite s i d :=
  .locked (fun _ _ => rfl) fun _ => rfl

theorem vcfgWrite_keepsApart (v : Fin 5) (d : Word) : BusPart.KeepsApart fun _ s => vcfgWrite s v d :=
  .locked (fun _ _ => rfl) fun _ => rfl

theorem vtmapWrite_keepsApart (v : Fin 5) (d : Word) : BusPart.KeepsApart fun _ s => vtmapWrite s v d :=
  .locked (fun _ _ => rfl) fun _ => rfl

theorem writePart_keepsApart (a : Addr) (d : Word) : (writePart a d).KeepsApart := by
  unfold writePart
  cases hostWord a with
  | ctrl | events | irqEn => exact .of_engine_kept (fun _ _ _ => rfl) fun _ _ => rfl
  | cmd => exact commandPart_keepsApart d
  | lutSig i => exact lutWrite_keepsApart i d
  | vdescCfg v => exact vcfgWrite_keepsApart v d
  | vdescTmap v => exact vtmapWrite_keepsApart v d
  | _ => exact refuseWrite_keepsApart

theorem busOf_keepsApart (i : Instr) : BusPart.KeepsApart (busOf i).2 := by
  cases i with
  | streamByte _ => exact nopPart_keepsApart
  | csrRead _ => exact readPart_keepsApart
  | csrWrite a d => exact writePart_keepsApart a d
  | nop => exact nopPart_keepsApart
  | abort => exact abortPart_keepsApart
  | release => exact releasePart_keepsApart
  | clrCounters => exact clrCountersPart_keepsApart
  | ckInit c => exact ckInitPart_keepsApart c
  | ckByte b => exact ckBytePart_keepsApart b

/-! ### Whole steps -/

theorem presenting_withEngine (s : State) (i : Instr) (e : Engine) :
    (s.withEngine e).presenting i = (s.presenting i).withEngine e := by
  cases i <;> rfl

/-- With another engine an operation answers the same but for the engine and the word read. -/
theorem exec_withEngine {i : Instr} {s t : State} (h : exec i s = .next t) (e : Engine) :
    ∃ u, exec i (s.withEngine e) = .next u ∧
      { u with engine := t.engine, out := { u.out with rdata := t.out.rdata } } = t := by
  obtain ⟨r, hr, rfl⟩ := exec_next h
  have hr' : streamPart ((s.withEngine e).presenting i) = .ok (r.withEngine e) :=
    presenting_withEngine s i e ▸ streamPart_withEngine hr e
  obtain ⟨e', he'⟩ := (busOf_keepsApart i).rest r.inc r.st e
  refine ⟨_, exec_of_stream hr', ?_⟩
  rw [presenting_withEngine, StreamResult.withEngine, he']
  rfl

/-- Settles O29. The stream part neither reads nor writes the engine, and the bus part keeps them apart. -/
theorem engineIsIndependent : Obligations.EngineIsIndependent := by
  unfold Obligations.EngineIsIndependent
  refine ⟨fun _ _ _ e h => exec_withEngine h e, fun i s s' t t' h h' hengine hinit => ?_⟩
  obtain ⟨r, hr, rfl⟩ := exec_next h
  obtain ⟨r', hr', rfl⟩ := exec_next h'
  have hset := (presenting_settings s i).trans (streamPart_settings hr)
  have hset' := (presenting_settings s' i).trans (streamPart_settings hr')
  rw [finish_engine, finish_engine]
  refine (busOf_keepsApart i).engine r.inc r'.inc r.st r'.st ?_ ?_
  · rw [hset.engine, hset'.engine, hengine]
  · rw [hset.cfg, hset'.cfg, hinit]

end Sys2Proof.Machine

end

section
/-! PROOFS. The compare at the frame's last byte, and the event it posts (rules R110, R122, R190). -/

namespace Sys2Proof.Machine

/-! ### The compare (rules R120, R121, R190) -/

theorem lastByte_ev (s : State) (b : Byte) :
    (lastByte s b).ev = some (if s.computedCk = s.receivedCk b then .frameOk else .checksumMismatch) := by
  unfold lastByte
  dsimp only
  split <;> rfl

theorem lastByte_fbuf (s : State) (b : Byte) : (lastByte s b).st.fbuf = s.fbuf.write s.idx.toNat b := by
  unfold lastByte
  dsimp only
  split <;> rfl

theorem lastByte_pass {s : State} {b : Byte} (h : s.computedCk = s.receivedCk b) : (lastByte s b).st.ph = .complete := by
  simp only [lastByte, h, if_true]

/-- A failed compare raises CHECKSUM_MISMATCH at the last byte. -/
theorem lastByte_fail {s : State} {b : Byte} (h : s.computedCk ≠ s.receivedCk b) :
    lastByte s b =
      raiseFault { s.memWrite b with ckComp := s.computedCk, ckRecv := s.receivedCk b } .checksumMismatch
        .checksumMismatch b s.idx [] := by
  simp only [lastByte, h, if_false]

/-- The two sides of the compare, over the whole frame `d ++ [b]`. -/
theorem State.Holds.compare {s : State} {d : List Byte} (b : Byte) (h : s.Holds d) (hok : s.LengthOk)
    (hlast : d.length + 1 = s.hdr.flen.toNat) :
    s.computedCk = cks s.cfg s.ctx.alg ((d ++ [b]).take s.cksumStart.toNat) ∧ s.receivedCk b = s.trailer (d ++ [b]) := by
  have h4 := hok.four_le_cksumStart
  have hcs := hok.bodyStart_le_cksumStart.1
  constructor
  · apply computedCk_ofBytes
    rw [List.take_append_of_le_length (by omega), accumulatorsHold_iff.mp h.accumulators,
      accumulated_of_ge (by omega) (by omega)]
  · exact receivedCk_eq_trailer b (by omega) (h.first_checksum_byte (by omega) (by omega))

/-- The declared length is at least that of a frame with no body (rule R146). -/
theorem State.LengthOk.fourteen_le_flen {s : State} (h : s.LengthOk) : 14 ≤ s.hdr.flen.toNat := by
  obtain ⟨hcs, hbody⟩ := h.bodyStart_le_cksumStart
  have hH := headerLen_toNat s
  have hHB := headerLen_le_bodyStart s
  omega

/-! ### Only the compare posts FRAME_OK or CHECKSUM_MISMATCH (rule R251) -/

/-- The event of a compare. -/
def comparedEvent (ev : Option StreamEvent) : Prop := ev = some .frameOk ∨ ev = some .checksumMismatch

theorem not_comparedEvent_none : ¬ comparedEvent none := by
  simp [comparedEvent]

theorem byte1_not_compared (s : State) (b : Byte) : ¬ comparedEvent (byte1 s b).ev := by
  unfold byte1
  dsimp only
  split
  next => simp [comparedEvent, ErrorKind.event]
  split <;> simp [comparedEvent, ErrorKind.event]

theorem byte3_not_compared (s : State) (b : Byte) : ¬ comparedEvent (byte3 s b).ev := by
  unfold byte3
  dsimp only
  split
  next => simp [comparedEvent, ErrorKind.event]
  split <;> simp [comparedEvent, ErrorKind.event]

theorem huntDiscard_not_compared (s : State) (b : Byte) : ¬ comparedEvent (huntDiscard s b).ev := by
  unfold huntDiscard
  dsimp only
  split <;> simp [comparedEvent, ErrorKind.event]

theorem frameByte_of_compared {s : State} {b : Byte} (h : comparedEvent (frameByte s b).ev) :
    4 ≤ s.idx.toNat ∧ ¬ s.idx < s.hdr.flen - 1 ∧ frameByte s b = lastByte s b := by
  unfold frameByte at h ⊢
  split at h
  next => exact absurd h not_comparedEvent_none
  split at h
  next => exact absurd h (byte1_not_compared s b)
  split at h
  next => exact absurd h not_comparedEvent_none
  split at h
  next => exact absurd h (byte3_not_compared s b)
  split at h
  next => exact absurd h not_comparedEvent_none
  next h0 h1 h2 h3 hlast =>
    exact ⟨by bv_omega, hlast, by rw [if_neg h0, if_neg h1, if_neg h2, if_neg h3, if_neg hlast]⟩

/-- A stream part that posts the event of a compare processed the last byte of a frame whose bytes so far it held. -/
theorem streamPart_of_compared {s : State} {r : StreamResult} (hinv : s.Inv) (hframe : s.FrameInv)
    (hr : streamPart s = .ok r) (hev : comparedEvent r.ev) :
    ∃ b s' d, s.nextByte = some (b, s') ∧ r = lastByte s' b ∧ s'.Holds d ∧ s'.LengthOk ∧
      d.length + 1 = s'.hdr.flen.toNat := by
  rcases streamPart_cases hr with ⟨-, rfl⟩ | ⟨-, -, rfl⟩ | ⟨b, s', -, hn, -, rfl⟩ | ⟨b, s', -, hn, -, -, rfl⟩
  · exact absurd hev not_comparedEvent_none
  · exact absurd hev not_comparedEvent_none
  · exact absurd hev (huntDiscard_not_compared s' b)
  · obtain ⟨h4, hlast, hbyte⟩ := frameByte_of_compared hev
    have hproc := nextByte_processing hinv hn
    have h0 : s'.idx ≠ 0 := by bv_omega
    obtain ⟨d, hd⟩ := hframe.congr (nextByte_held hn) (.inl ⟨hproc.receiving, h0⟩)
    exact ⟨b, s', d, hn, hbyte, hd, (hproc.position h4).1,
      by rw [hd.length_eq]; exact last_index_of_inv hproc.inv hproc.receiving h4 hlast⟩

theorem State.SameGeometry.trailer {s t : State} (e : s.SameGeometry t) (d : List Byte) : t.trailer d = s.trailer d := by
  rw [State.trailer, e.cksumStart, e.ctx, State.trailer]

/-- Settles O57. The event is the compare's, and the compare is of the held frame's checksum and its trailer. -/
theorem eventTellsWhetherTheChecksumMatches : Obligations.EventTellsWhetherTheChecksumMatches := by
  unfold Obligations.EventTellsWhetherTheChecksumMatches
  intro i s t hinv hframe he hev
  obtain ⟨r, hr, rfl⟩ := exec_next he
  obtain ⟨o, ho⟩ := presenting_eq s i
  rw [ho] at hr
  obtain ⟨b, s', d, hn, rfl, hd, hok, hlast⟩ :=
    streamPart_of_compared (hinv.withInputs o s.script) (hframe.congr (sameHeld_withInputs s o s.script)) hr hev
  have hheld := nextByte_held hn
  have e : s.SameGeometry s' := ⟨hheld.ctx, congrArg Header.flen hheld.hdr⟩
  have hcs := hok.bodyStart_le_cksumStart.1
  obtain ⟨hcomp, hrecv⟩ := hd.compare b hok hlast
  have hlen : (d ++ [b]).length = s'.hdr.flen.toNat := by rw [List.length_append, List.length_singleton, hlast]
  refine ⟨d ++ [b], by rw [hlen, e.flen], hlen ▸ hok.fourteen_le_flen, ?_, ?_⟩
  · rw [finish_fbuf, (busOf_frame i _ _).fbuf]
    exact lastByte_fbuf s' b ▸ hd.buffered_concat b
  · rw [finish_evq, lastByte_ev, ← e.trailer, hcomp, hrecv, show s'.cfg = s.cfg from hheld.cfg, e.ctx, hlen,
      show s'.hdr.flen.toNat - 2 = s'.cksumStart.toNat by omega]
    split
    next h => exact ⟨fun _ => h, fun _ => rfl⟩
    next h => exact ⟨nofun, fun heq => absurd heq h⟩

end Sys2Proof.Machine

end

section
/-! PROOFS. Runs of bytes taken one after another: what they leave of the frame and of its place (rules R171, R174). -/

namespace Sys2Proof.Machine

/-! ### One byte taken from the port -/

/-- A state of the invariant that takes a port byte in its next step. -/
structure State.Ready (s : State) : Prop where
  inv : s.Inv
  offer : s.offer = none
  ready : s.inReady = true

/-- What the step leaves that takes `b` into the frame. -/
def State.afterByte (s : State) (b : Byte) : State :=
  (frameByte s b).st.finish (frameByte s b).ev false (State.outputs { s with offer := some b } none)

theorem State.Ready.nextByte {s : State} (h : s.Ready) (b : Byte) :
    (s.presenting (.streamByte b)).nextByte = some (b, s) := by
  have hs : ({ s with offer := none } : State) = s := by
    rw [← h.offer]
  exact (nextByte_ready h.ready).trans (by rw [hs])

theorem State.Ready.processing {s : State} (h : s.Ready) : s.Processing :=
  nextByte_processing (h.inv.presenting (.streamByte 0)) (h.nextByte 0)

theorem State.Ready.streamPart {s : State} (h : s.Ready) (b : Byte) :
    streamPart (s.presenting (.streamByte b)) = process s b :=
  streamPart_byte h.processing.receiving.2 (h.nextByte b)

theorem State.Ready.fits {s : State} (h : s.Ready) : s.idx.toNat < s.cfg.fbufBytes :=
  (h.inv.fits.resolve_left h.processing.receiving.1).resolve_left h.processing.receiving.2

theorem State.Ready.exec_accepted {s : State} (h : s.Ready) {b : Byte} (ha : s.acceptsIntoFrame b = true) :
    exec (.streamByte b) s = .next (s.afterByte b) :=
  exec_of_stream (i := .streamByte b) ((h.streamPart b).trans (process_accepted ha h.fits))

theorem State.Ready.exec_discarded {s : State} (h : s.Ready) {b : Byte} (ha : s.acceptsIntoFrame b = false) :
    exec (.streamByte b) s =
      .next ((huntDiscard s b).st.finish (huntDiscard s b).ev false (State.outputs { s with offer := some b } none)) :=
  exec_of_stream (i := .streamByte b) ((h.streamPart b).trans (process_discarded ha))

theorem afterByte_sameHeld (s : State) (b : Byte) : (frameByte s b).st.SameHeld (s.afterByte b) :=
  ⟨rfl, rfl, rfl, rfl, rfl, rfl, rfl, rfl, rfl, rfl⟩

/-- A ready state whose frame goes on with the byte takes the next one as well, and counts nothing. -/
theorem State.Ready.afterByte {s : State} (h : s.Ready) {b : Byte} (ha : s.acceptsIntoFrame b = true)
    (hrecv : (frameByte s b).st.ph.receiving) :
    (s.afterByte b).Ready ∧ (s.afterByte b).cnt = s.cnt ∧ (s.afterByte b).idx.toNat = s.idx.toNat + 1 := by
  cases frameByte_position b h.processing with
  | completed _ ph => exact absurd ph hrecv.1
  | raised ph => exact absurd ph hrecv.2
  | advanced rq locked cnt idx receiving short long =>
    obtain ⟨hen, hrq, -, -⟩ := (inReady_iff s).mp h.ready
    have hready : (s.afterByte b).inReady = true :=
      (inReady_iff _).mpr ⟨(frameByte_settings s b).en.trans hen, rq.trans hrq, receiving.1, receiving.2⟩
    exact ⟨⟨exec_keeps_inv h.inv (h.exec_accepted ha), (frameByte_offer s b).trans h.offer, hready⟩, cnt, idx⟩

/-- A byte moves the frame index by one at most. -/
theorem State.Ready.exec_idx_le {s t : State} {b : Byte} (h : s.Ready) (he : exec (.streamByte b) s = .next t) :
    t.idx.toNat ≤ s.idx.toNat + 1 ∧ t.offer = none := by
  cases ha : s.acceptsIntoFrame b with
  | false =>
    rw [h.exec_discarded ha, Host.Outcome.next.injEq] at he
    rw [← he, finish_idx, finish_offer, huntDiscard_idx, huntDiscard_offer]
    exact ⟨Nat.le_succ _, h.offer⟩
  | true =>
    rw [h.exec_accepted ha, Host.Outcome.next.injEq] at he
    rw [← he, State.afterByte, finish_idx, finish_offer, frameByte_offer]
    refine ⟨?_, h.offer⟩
    cases frameByte_position b h.processing with
    | advanced _ _ _ idx => exact idx.le
    | completed _ _ _ _ _ next => exact next.le
    | raised _ _ idx => exact idx ▸ Nat.le_succ _

/-! ### Runs of bytes -/

theorem feed_cons {s t : State} {b : Byte} (he : exec (.streamByte b) s = .next t) (bs : List Byte) :
    feed (b :: bs) s = feed bs t := by
  simp only [feed, List.map_cons, execAll, he]

theorem feed_cons_next {s t : State} {b : Byte} {bs : List Byte} (h : feed (b :: bs) s = .next t) :
    ∃ u, exec (.streamByte b) s = .next u ∧ feed bs u = .next t := by
  cases he : exec (.streamByte b) s with
  | next u => exact ⟨u, rfl, feed_cons he bs ▸ h⟩
  | fault f => simp [feed, execAll, he] at h
  | refused r => simp [feed, execAll, he] at h

theorem feed_append {s t : State} {bs : List Byte} (h : feed bs s = .next t) (cs : List Byte) :
    feed (bs ++ cs) s = feed cs t := by
  induction bs generalizing s with
  | nil => rw [List.nil_append, Host.Outcome.next.inj h]
  | cons b bs ih =>
    obtain ⟨u, he, hu⟩ := feed_cons_next h
    rw [List.cons_append, feed_cons he, ih hu]

theorem feed_keeps_inv {s t : State} {bs : List Byte} (hinv : s.Inv) (h : feed bs s = .next t) : t.Inv := by
  induction bs generalizing s with
  | nil => exact Host.Outcome.next.inj h ▸ hinv
  | cons b bs ih =>
    obtain ⟨u, he, hu⟩ := feed_cons_next h
    exact ih (exec_keeps_inv hinv he) hu

/-- A run of bytes that are all taken moves the frame index by one a byte at most. -/
theorem feed_idx_le {s t : State} {bs : List Byte} (hinv : s.Inv) (ho : s.offer = none) (ht : TakesEach bs s)
    (hf : feed bs s = .next t) : t.idx.toNat ≤ s.idx.toNat + bs.length := by
  induction bs generalizing s with
  | nil => exact Host.Outcome.next.inj hf ▸ le_rfl
  | cons b bs ih =>
    obtain ⟨hready, u, he, ht'⟩ := ht
    have hu := State.Ready.exec_idx_le ⟨hinv, ho, hready⟩ he
    have hle := ih (exec_keeps_inv hinv he) hu.2 ht' (feed_cons he bs ▸ hf)
    rw [List.length_cons]
    omega

theorem TakesEach.ready {s : State} {bs : List Byte} (h : TakesEach bs s) (hne : bs ≠ []) : s.inReady = true := by
  cases bs with
  | nil => exact absurd rfl hne
  | cons b bs => exact h.1

/-! ### Inside a frame -/

/-- The state is ready in the middle of a frame whose bytes so far are `d`. -/
structure State.Receives (s : State) (d : List Byte) : Prop extends s.Ready where
  started : s.idx ≠ 0
  holds : s.Holds d

theorem State.Receives.accepts {s : State} {d : List Byte} (h : s.Receives d) (b : Byte) :
    s.acceptsIntoFrame b = true := by
  rw [State.acceptsIntoFrame, bne_iff_ne.mpr h.started, Bool.true_or]

theorem State.Receives.exec {s : State} {d : List Byte} (h : s.Receives d) (b : Byte) :
    exec (.streamByte b) s = .next (s.afterByte b) := h.exec_accepted (h.accepts b)

theorem State.Receives.afterByte {s : State} {d : List Byte} (h : s.Receives d) {b : Byte}
    (hrecv : (frameByte s b).st.ph.receiving) :
    (s.afterByte b).Receives (d ++ [b]) ∧ (s.afterByte b).cnt = s.cnt := by
  obtain ⟨hready, hcnt, hidx⟩ := h.toReady.afterByte (h.accepts b) hrecv
  have hheld : (frameByte s b).st.Holds (d ++ [b]) :=
    (frameByte_holds b h.holds h.started h.processing.position).resolve_left hrecv.2
  have hstarted : (s.afterByte b).idx ≠ 0 := by bv_omega
  exact ⟨⟨hready, hstarted, hheld.congr (afterByte_sameHeld s b)⟩, hcnt⟩

theorem receiving_of_inReady {s : State} (h : s.inReady = true) : s.ph.receiving := by
  obtain ⟨-, -, hph⟩ := (inReady_iff s).mp h
  exact hph

/-- The first byte of a run that goes on is the frame's sync byte, unless it is discarded. -/
theorem State.Ready.first_byte {s t : State} {b : Byte} (h : s.Ready) (hidx : s.idx = 0)
    (he : Machine.exec (.streamByte b) s = .next t) (ht : t.idx ≠ 0) : t.Receives [b] ∧ t.cnt = s.cnt := by
  cases ha : s.acceptsIntoFrame b with
  | false =>
    rw [h.exec_discarded ha, Host.Outcome.next.injEq] at he
    rw [← he, finish_idx, huntDiscard_idx] at ht
    exact absurd hidx ht
  | true =>
    rw [h.exec_accepted ha, Host.Outcome.next.injEq] at he
    have hbyte : frameByte s b = syncAccept s b := if_pos hidx
    obtain ⟨hready, hcnt, -⟩ := h.afterByte ha (by rw [hbyte]; exact ⟨nofun, nofun⟩)
    have hheld : (frameByte s b).st.Holds [b] := hbyte ▸ syncAccept_holds b hidx
    exact he ▸ ⟨⟨hready, he ▸ ht, hheld.congr (afterByte_sameHeld s b)⟩, hcnt⟩

/-- A run of bytes that are all taken, with more to come: each is the frame's next byte. -/
theorem State.Receives.feed_front {s : State} {d p rest : List Byte} (h : s.Receives d) (hne : rest ≠ [])
    (ht : TakesEach (p ++ rest) s) :
    ∃ m, feed p s = .next m ∧ m.Receives (d ++ p) ∧ m.cnt = s.cnt ∧ TakesEach rest m := by
  induction p generalizing s d with
  | nil => exact ⟨s, rfl, by rwa [List.append_nil], rfl, ht⟩
  | cons b p ih =>
    obtain ⟨-, u, he, ht'⟩ := ht
    obtain rfl := Host.Outcome.next.inj ((h.exec b).symm.trans he)
    have hready := ht'.ready (by simp [hne])
    obtain ⟨hu, hcnt⟩ := h.afterByte (b := b) (receiving_of_inReady hready)
    obtain ⟨m, hm, hrecv, hmcnt, htm⟩ := ih hu ht'
    exact ⟨m, feed_cons he p ▸ hm, by simpa using hrecv, hmcnt.trans hcnt, htm⟩

end Sys2Proof.Machine

end

section
/-! PROOFS. A frame from index 4 on, and a passing frame with one byte changed (rules R128, R152, R190). -/

namespace Sys2Proof.Machine

/-! ### The bytes from index 4 on (rules R152, R190) -/

theorem frameByte_body {s : State} (b : Byte) (h4 : 4 ≤ s.idx.toNat) (hlt : s.idx < s.hdr.flen - 1) :
    frameByte s b = bodyByte s b := by
  rw [frameByte, if_neg (by bv_omega), if_neg (by bv_omega), if_neg (by bv_omega), if_neg (by bv_omega), if_pos hlt]

theorem frameByte_last {s : State} (b : Byte) (h4 : 4 ≤ s.idx.toNat) (hlast : ¬ s.idx < s.hdr.flen - 1) :
    frameByte s b = lastByte s b := by
  rw [frameByte, if_neg (by bv_omega), if_neg (by bv_omega), if_neg (by bv_omega), if_neg (by bv_omega), if_neg hlast]

theorem lastByte_geometry (s : State) (b : Byte) : s.SameGeometry (lastByte s b).st := by
  unfold lastByte
  dsimp only
  split <;> exact ⟨rfl, rfl⟩

theorem State.SameGeometry.trans {s t u : State} (h : s.SameGeometry t) (h' : t.SameGeometry u) : s.SameGeometry u :=
  ⟨h'.ctx.trans h.ctx, h'.flen.trans h.flen⟩

/-- From index 4 on no byte changes the latched context or the length. -/
theorem afterByte_geometry {s : State} (b : Byte) (h4 : 4 ≤ s.idx.toNat) : s.SameGeometry (s.afterByte b) := by
  have e : s.SameGeometry (frameByte s b).st := by
    by_cases hlt : s.idx < s.hdr.flen - 1
    · exact frameByte_body b h4 hlt ▸ bodyByte_geometry s b
    · exact frameByte_last b h4 hlt ▸ lastByte_geometry s b
  exact ⟨e.ctx, e.flen⟩

theorem State.Receives.feed_geometry {s t : State} {d bs : List Byte} (h : s.Receives d) (h4 : 4 ≤ s.idx.toNat)
    (ht : TakesEach bs s) (hf : feed bs s = .next t) : s.SameGeometry t := by
  induction bs generalizing s d with
  | nil => exact Host.Outcome.next.inj hf ▸ ⟨rfl, rfl⟩
  | cons b bs ih =>
    obtain ⟨-, u, he, ht'⟩ := ht
    obtain rfl := Host.Outcome.next.inj ((h.exec b).symm.trans he)
    have hfu : feed bs (s.afterByte b) = .next t := feed_cons he bs ▸ hf
    have hb := afterByte_geometry b h4
    by_cases hbs : bs = []
    · subst hbs
      exact Host.Outcome.next.inj hfu ▸ hb
    · have hrecv := (h.afterByte (receiving_of_inReady (ht'.ready hbs))).1
      have hlen := hrecv.holds.length_eq
      rw [List.length_append, h.holds.length_eq] at hlen
      exact hb.trans (ih hrecv (by omega) ht' hfu)

/-- Bytes before the last one are taken whatever they are, and the frame goes on. -/
theorem State.Receives.feed_body {s : State} {d ds : List Byte} (h : s.Receives d) (h4 : 4 ≤ d.length)
    (hlen : d.length + ds.length < s.hdr.flen.toNat) :
    ∃ v, feed ds s = .next v ∧ v.Receives (d ++ ds) ∧ s.SameGeometry v ∧ v.cfg = s.cfg ∧ v.cnt = s.cnt := by
  induction ds generalizing s d with
  | nil => exact ⟨s, rfl, by rwa [List.append_nil], ⟨rfl, rfl⟩, rfl, rfl⟩
  | cons b ds ih =>
    rw [List.length_cons] at hlen
    have hidx := h.holds.length_eq
    have hlt : s.idx < s.hdr.flen - 1 := by bv_omega
    have hrecv : (frameByte s b).st.ph.receiving :=
      frameByte_body b (hidx ▸ h4) hlt ▸ phaseOf_receiving _ _
    have e := afterByte_geometry b (hidx ▸ h4)
    obtain ⟨hafter, hcnt⟩ := h.afterByte hrecv
    obtain ⟨v, hv, hvrecv, hvgeo, hvcfg, hvcnt⟩ :=
      ih hafter (by simp; omega) (by rw [e.flen, List.length_append, List.length_singleton]; omega)
    exact ⟨v, feed_cons (h.exec b) ds ▸ hv, by simpa using hvrecv, e.trans hvgeo,
      hvcfg.trans (frameByte_settings s b).cfg, hvcnt.trans hcnt⟩

/-- The frame `d`, with the latched context and length of `s`, passes the compare (rules R110, R122). -/
def State.Passes (s : State) (d : List Byte) : Prop :=
  cks s.cfg s.ctx.alg (d.take s.cksumStart.toNat) = s.trailer d

/-- The rest of a frame from index 4 on is taken whatever it is, and its last byte is compared. -/
theorem State.Receives.feed_frame {s : State} {d rest : List Byte} (h : s.Receives d) (h4 : 4 ≤ d.length)
    (hlen : d.length + rest.length = s.hdr.flen.toNat) :
    ∃ u, feed rest s = .next u ∧ (s.Passes (d ++ rest) → u.ph = .complete) ∧
      (¬ s.Passes (d ++ rest) → u.ph = .faulted ∧ u.evq = some .checksumMismatch ∧
        u.err.reason = .checksumMismatch ∧ u.cnt = s.cnt.bump .cksumErr) := by
  have hlt := (h.processing.position (h.holds.length_eq ▸ h4)).2
  have hne : rest ≠ [] := by
    rintro rfl
    have hidx := h.holds.length_eq
    rw [List.length_nil] at hlen
    bv_omega
  obtain ⟨mid, b, rfl⟩ : ∃ mid b, rest = mid ++ [b] := ⟨_, _, (List.dropLast_append_getLast hne).symm⟩
  rw [List.length_append, List.length_singleton] at hlen
  obtain ⟨v, hv, hrecv, e, hcfg, hcnt⟩ := h.feed_body h4 (ds := mid) (by omega)
  have hidx := hrecv.holds.length_eq
  rw [List.length_append] at hidx
  have hflen : v.hdr.flen.toNat = s.hdr.flen.toNat := congrArg BitVec.toNat e.flen
  have h4v : 4 ≤ v.idx.toNat := by omega
  have hbyte : frameByte v b = lastByte v b := frameByte_last b h4v (by bv_omega)
  obtain ⟨hcomp, hrcv⟩ := hrecv.holds.compare b (hrecv.processing.position h4v).1
    (by rw [List.length_append]; omega)
  have hpass : v.computedCk = v.receivedCk b ↔ s.Passes (d ++ (mid ++ [b])) := by
    rw [hcomp, hrcv, hcfg, e.ctx, e.cksumStart, e.trailer, List.append_assoc]
    rfl
  refine ⟨v.afterByte b, ?_, fun hp => ?_, fun hp => ?_⟩
  · rw [feed_append hv, feed_cons (hrecv.exec b)]
    rfl
  · rw [State.afterByte, hbyte, finish_ph, lastByte_pass (hpass.mpr hp)]
  · rw [State.afterByte, hbyte, lastByte_fail (fun heq => hp (hpass.mp heq))]
    exact ⟨rfl, rfl, rfl, congrArg (Counters.bump · .cksumErr) hcnt⟩

/-! ### One byte changed (rule R128) -/

theorem append_byte_injective {hi lo hi' lo' : Byte} (h : hi ++ lo = hi' ++ lo') : hi = hi' ∧ lo = lo' := by
  constructor
  · have hhi := congrArg (BitVec.extractLsb' 8 8) h
    rwa [BitVec.extractLsb'_append_eq_left, BitVec.extractLsb'_append_eq_left] at hhi
  · have hlo := congrArg (BitVec.extractLsb' 0 8) h
    rwa [BitVec.extractLsb'_append_eq_right, BitVec.extractLsb'_append_eq_right] at hlo

/-- Two frames of one trailer have the same two last bytes. -/
theorem trailer_injective {s : State} {d d' : List Byte} (h : s.trailer d = s.trailer d') :
    d.getD s.cksumStart.toNat 0 = d'.getD s.cksumStart.toNat 0 ∧
      d.getD (s.cksumStart.toNat + 1) 0 = d'.getD (s.cksumStart.toNat + 1) 0 := by
  unfold State.trailer at h
  dsimp only at h
  split at h
  next => exact (append_byte_injective h).symm
  next => exact append_byte_injective h

theorem getD_set_self {d : List Byte} {j : Nat} (hj : j < d.length) (b : Byte) : (d.set j b).getD j 0 = b := by
  simp [hj]

theorem getD_set_other {d : List Byte} {j k : Nat} (hjk : j ≠ k) (b : Byte) : (d.set j b).getD k 0 = d.getD k 0 := by
  simp [hjk]

/-- A passing frame with one byte changed fails: the change is in the checksummed bytes alone, or in the trailer alone. -/
theorem not_passes_set {s : State} {d : List Byte} {j : Nat} {b : Byte} (hlen : d.length = s.cksumStart.toNat + 2)
    (hj : j < d.length) (hb : d[j] ≠ b) (h : s.Passes d) : ¬ s.Passes (d.set j b) := by
  intro h'
  unfold State.Passes at h h'
  rw [List.take_set] at h'
  by_cases hcs : j < s.cksumStart.toNat
  · have htrailer : s.trailer (d.set j b) = s.trailer d := by
      simp only [State.trailer, getD_set_other (show j ≠ s.cksumStart.toNat by omega),
        getD_set_other (show j ≠ s.cksumStart.toNat + 1 by omega)]
    refine checksumDetectsAnyOneByte s.cfg s.ctx.alg (d.take s.cksumStart.toNat) j b (by simp; omega) ?_ ?_
    · rwa [List.getElem_take]
    · rw [h', htrailer, h]
  · rw [List.set_eq_of_length_le (by simp; omega), h] at h'
    obtain ⟨hhi, hlo⟩ := trailer_injective h'
    have hd : d.getD j 0 = d[j] := List.getD_eq_getElem _ _ hj
    rcases (by omega : j = s.cksumStart.toNat ∨ j = s.cksumStart.toNat + 1) with hj' | hj'
    · rw [← hj', getD_set_self hj, hd] at hhi
      exact hb hhi
    · rw [← hj', getD_set_self hj, hd] at hlo
      exact hb hlo

/-- A run of bytes that ends with a whole frame held, all of them its bytes, has passed index 4. -/
theorem reaches_index_four {s t : State} {bs : List Byte} (hinv : s.Inv) (hidx : s.idx = 0) (ho : s.offer = none)
    (ht : TakesEach bs s) (hf : feed bs s = .next t) (hc : t.ph = .complete) (hlen : t.hdr.flen.toNat = bs.length) :
    ∃ d rest m, bs = d ++ rest ∧ d.length = 4 ∧ feed d s = .next m ∧ m.Receives d ∧ m.cnt = s.cnt ∧
      feed rest m = .next t ∧ m.SameGeometry t := by
  obtain ⟨-, -, hcomplete, -⟩ := (feed_keeps_inv hinv hf).position_ok
  obtain ⟨-, -, hok, hend⟩ := hcomplete hc
  have h14 := hok.fourteen_le_flen
  match bs, ht, hf with
  | [], _, _ => exact absurd h14 (by rw [hlen]; decide)
  | b :: bs, ⟨hready, u, he, htu⟩, hf =>
    have hs : s.Ready := ⟨hinv, ho, hready⟩
    have hfu : feed bs u = .next t := feed_cons he bs ▸ hf
    rw [List.length_cons] at hlen
    have hle := feed_idx_le (exec_keeps_inv hinv he) (hs.exec_idx_le he).2 htu hfu
    rw [hend] at hle
    obtain ⟨hu, hucnt⟩ := hs.first_byte hidx he (by bv_omega)
    have hne : bs.drop 3 ≠ [] := List.ne_nil_of_length_pos (by rw [List.length_drop]; omega)
    obtain ⟨m, hm, hrecv, hmcnt, htm⟩ :=
      hu.feed_front (p := bs.take 3) hne (by rwa [List.take_append_drop])
    have hfm : feed (bs.drop 3) m = .next t := by
      rw [← feed_append hm, List.take_append_drop, hfu]
    have hlen4 : (b :: bs.take 3).length = 4 := by
      rw [List.length_cons, List.length_take]
      omega
    refine ⟨b :: bs.take 3, bs.drop 3, m, by simp, hlen4, feed_cons he _ ▸ hm, hrecv, hmcnt.trans hucnt, hfm, ?_⟩
    exact hrecv.feed_geometry (hrecv.holds.length_eq ▸ hlen4.ge) htm hfm

/-- Settles O60. Up to index 4 both runs are one; from there each byte is taken whatever it is, and the last one is compared
with the checksum of the bytes taken. -/
theorem corruptedByteIsCaught : Obligations.CorruptedByteIsCaught := by
  unfold Obligations.CorruptedByteIsCaught
  intro bs s t j b hj hinv _ hidx ho ht hf hc hflen h4 hb
  obtain ⟨d, rest, m, rfl, hd, hm, hrecv, hcnt, hfm, e⟩ := reaches_index_four hinv hidx ho ht hf hc hflen
  have hmlen : d.length + rest.length = m.hdr.flen.toNat := by
    rw [← List.length_append, ← hflen, e.flen]
  have hpass : m.Passes (d ++ rest) := by
    by_contra hno
    obtain ⟨u, hu, -, hfail⟩ := hrecv.feed_frame hd.ge hmlen
    obtain rfl := Host.Outcome.next.inj (hu.symm.trans hfm)
    exact absurd (hc.symm.trans (hfail hno).1) nofun
  have hset : (d ++ rest).set j b = d ++ rest.set (j - d.length) b := List.set_append_right _ _ (by omega)
  have hcs := (hrecv.processing.position (hrecv.holds.length_eq ▸ hd.ge)).1.bodyStart_le_cksumStart.1
  have hno : ¬ m.Passes (d ++ rest.set (j - d.length) b) :=
    hset ▸ not_passes_set (by rw [List.length_append]; omega) hj hb hpass
  obtain ⟨u, hu, -, hfail⟩ := hrecv.feed_frame (rest := rest.set (j - d.length) b) hd.ge (by rwa [List.length_set])
  obtain ⟨hph, hevq, hreason, hucnt⟩ := hfail hno
  refine ⟨u, by rw [hset, feed_append hm, hu], hph, hevq, hreason, ?_, ?_⟩
  · rw [hucnt, hcnt]
    rfl
  · rw [hucnt, hcnt]
    rfl

end Sys2Proof.Machine

end

section
/-! PROOFS. The frame geometry in numbers, and the phase of each index (rules R141, R146, R177). -/

namespace Sys2Proof.Machine

/-! ### The frame geometry in numbers (rules R141, R146) -/

theorem isCfg_iff (s : State) : s.isCfg = true ↔ s.ctx.ftype = .configuration := beq_iff_eq

theorem hasCells_iff (s : State) :
    s.hasCells = true ↔ s.ctx.ftype = .configuration ∧ 12 + s.ctx.frac.val ≤ s.ctx.off.toNat := by
  rw [State.hasCells, Bool.and_eq_true, isCfg_iff, decide_eq_true_eq, BitVec.le_def, headerLen_toNat, cellOff_toNat]

theorem footLen_toNat (s : State) :
    s.footLen.toNat = if s.ctx.ftype = .configuration then s.ctx.foot.val else 0 := by
  have hfoot := s.ctx.foot.isLt
  rw [State.footLen, apply_ite BitVec.toNat]
  exact if_congr (isCfg_iff s) (by rw [BitVec.toNat_ofNat]; omega) rfl

/-- Lmin is least with the shortest header alone, and greatest with C_OFF and the footer greatest. -/
theorem minLen_bounds (s : State) : 14 ≤ s.minLen.toNat ∧ s.minLen.toNat ≤ 261 := by
  have hmin := minLen_toNat s
  have hH := headerLen_toNat s
  have hHB := headerLen_le_bodyStart s
  have hBS := bodyStart_toNat s
  have hoff := cellOff_toNat s
  have hoff_lt := s.ctx.off.isLt
  have hfrac := s.ctx.frac.isLt
  have hfoot := footLen_le_two s
  split at hBS <;> omega

/-- Once the length checks hold, the footer lies between the body start and the checksum. -/
theorem State.LengthOk.footStart_eq {s : State} (h : s.LengthOk) :
    s.footStart.toNat + s.footLen.toNat = s.cksumStart.toNat ∧ s.bodyStart.toNat ≤ s.footStart.toNat := by
  have hle : s.minLen.toNat ≤ s.hdr.flen.toNat := h.1
  have hmin := minLen_toNat s
  have hcs := h.bodyStart_le_cksumStart.1
  have hfs : s.footStart.toNat + s.footLen.toNat = s.cksumStart.toNat := by
    unfold State.footStart
    bv_omega
  omega

/-! ### The phase of each index (rule R177) -/

/-- The ranges of rule R177 lie one behind the other, so each phase is that of its own range and of no other. -/
theorem State.LengthOk.phaseOf_iff {s : State} (h : s.LengthOk) (i : Half) :
    (s.phaseOf i = .awaitingHeader ↔ i.toNat < s.headerLen.toNat) ∧
      (s.phaseOf i = .headerParsed ↔ s.headerLen.toNat ≤ i.toNat ∧ i.toNat < s.bodyStart.toNat) ∧
      (s.phaseOf i = .parsingCells ↔ s.bodyStart.toNat ≤ i.toNat ∧ i.toNat < s.footStart.toNat) ∧
      (s.phaseOf i = .awaitingFooter ↔ s.footStart.toNat ≤ i.toNat ∧ i.toNat < s.cksumStart.toNat) ∧
      (s.phaseOf i = .awaitingChecksum ↔ s.cksumStart.toNat ≤ i.toNat) := by
  have hHB := headerLen_le_bodyStart s
  obtain ⟨hfoot, hBF⟩ := h.footStart_eq
  unfold State.phaseOf
  simp only [BitVec.lt_def]
  split
  next => simp; omega
  split
  next => simp; omega
  split
  next => simp; omega
  split
  next => simp; omega
  next => simp; omega

/-- Settles O48. The numbers are those of the geometry's lemmas, and the phases those of the ranges they bound. -/
theorem frameGeometry : Obligations.FrameGeometry := by
  unfold Obligations.FrameGeometry
  intro s H cells BS FOOT
  have hH : s.headerLen.toNat = H := headerLen_toNat s
  have hBS : s.bodyStart.toNat = BS := by
    rw [bodyStart_toNat, cellOff_toNat, hH]
    exact if_congr (hasCells_iff s) rfl rfl
  have hFOOT : s.footLen.toNat = FOOT := footLen_toNat s
  have hmin := minLen_toNat s
  rw [hBS, hFOOT] at hmin
  refine ⟨hH, hasCells_iff s, hBS, hFOOT, hmin, (minLen_bounds s).1, (minLen_bounds s).2, fun hok => ?_⟩
  have hHB := headerLen_le_bodyStart s
  have hCS := hok.bodyStart_le_cksumStart.1
  obtain ⟨hFS, hBF⟩ := hok.footStart_eq
  have hcs : s.cksumStart.toNat = s.hdr.flen.toNat - 2 := by omega
  have hfs : s.footStart.toNat = s.hdr.flen.toNat - 2 - FOOT := by omega
  refine ⟨hcs, hfs, by omega, by omega, by omega, fun i _ => ?_⟩
  have hphase := hok.phaseOf_iff i
  rwa [hH, hBS, hfs, hcs] at hphase

end Sys2Proof.Machine

end

section
/-! PROOFS. One byte taken from the port into the frame, and the bytes before index 4 (rules R142 to R146, R202 to
R206). -/

namespace Sys2Proof.Machine

/-! ### A byte taken from the port (rules R73, R171, R174) -/

/-- The step that offers `b` takes it from the port into the frame, where FBUF has a place for it. -/
structure State.Takes (s : State) (b : Byte) : Prop where
  ready : s.inReady = true
  accepts : s.acceptsIntoFrame b = true
  fits : s.idx.toNat < s.cfg.fbufBytes

/-- Inside a frame every byte is taken. -/
theorem State.Takes.of_started {s : State} (b : Byte) (hready : s.inReady = true) (hidx : s.idx ≠ 0)
    (hfits : s.idx.toNat < s.cfg.fbufBytes) : s.Takes b :=
  ⟨hready, by rw [State.acceptsIntoFrame, bne_iff_ne.mpr hidx, Bool.true_or], hfits⟩

theorem le_fbufBytes_of_wf {c : Config} (h : c.wf = true) : 264 ≤ c.fbufBytes := by
  rw [Config.wf, Bool.and_eq_true, decide_eq_true_eq] at h
  exact h.1

/-- The bytes before index 4 have a place in the smallest FBUF. -/
theorem State.idx_lt_of_short {s : State} (hcfg : s.cfg.wf = true) (hidx : s.idx.toNat < 4) :
    s.idx.toNat < s.cfg.fbufBytes := by
  have hsize := le_fbufBytes_of_wf hcfg
  omega

/-- At the indices 1 to 3 every byte is taken. -/
theorem State.Takes.of_short {s : State} {k : Half} (b : Byte) (hready : s.inReady = true) (hcfg : s.cfg.wf = true)
    (hidx : s.idx = k) (hk : 0 < k.toNat ∧ k.toNat < 4) : s.Takes b := by
  subst hidx
  exact .of_started b hready (by bv_omega) (State.idx_lt_of_short hcfg hk.2)

/-- The step that takes `b` does what the byte does by its index, the port emptied. -/
theorem State.Takes.exec_eq {s : State} {b : Byte} (h : s.Takes b) :
    exec (.streamByte b) s = .next (State.afterByte { s with offer := none } b) := by
  have hnext : (s.presenting (.streamByte b)).nextByte = some (b, { s with offer := none }) := nextByte_ready h.ready
  have hstream : streamPart (s.presenting (.streamByte b)) = .ok (frameByte { s with offer := none } b) :=
    (streamPart_byte (nextByte_receiving hnext).2 hnext).trans (process_accepted h.accepts h.fits)
  exact exec_of_stream hstream

theorem mergeEvents_no_busErr (events : BitVec 6) (ev : Option StreamEvent) :
    mergeEvents events ev false = events ||| evBit ev := by
  simp [mergeEvents, busErrBit]

theorem mergeEvents_nothing (events : BitVec 6) : mergeEvents events none false = events := by
  simp [mergeEvents_no_busErr, evBit]

/-- A byte that raises nothing leaves EVENTS and posts no event. -/
theorem State.Takes.exec_of_quiet {s t : State} {b : Byte} (h : s.Takes b)
    (hbyte : frameByte { s with offer := none } b = .quiet t) :
    exec (.streamByte b) s = .next { t with evq := none, out := s.outputs none } := by
  rw [h.exec_eq, State.afterByte, hbyte, State.finish, quiet_st, quiet_ev, mergeEvents_nothing]
  rfl

/-- A byte that raises a fault posts the event of its kind; a block that takes a byte has an empty queue, so the replay
alone is queued. -/
theorem State.Takes.exec_of_raise {s t : State} {b : Byte} (h : s.Takes b) {kind : ErrorKind} {reason : ErrReason}
    {j : Half} {replay : List Byte} (hbyte : frameByte { s with offer := none } b = raiseFault t kind reason b j replay)
    (hrq : t.rq = s.rq) :
    exec (.streamByte b) s = .next
      { t with
        ph := .faulted
        err := { reason := reason, byte := b, idx := j }
        rq := replay
        locked := false
        cnt := t.cnt.bump kind.counter
        events := t.events ||| evBit kind.event
        evq := kind.event
        out := s.outputs none } := by
  obtain ⟨-, hempty, -⟩ := (inReady_iff s).mp h.ready
  have hqueue : replay ++ t.rq = replay := by rw [hrq, hempty, List.append_nil]
  rw [h.exec_eq, State.afterByte, hbyte, State.finish, raiseFault_ev, mergeEvents_no_busErr, raiseFault, hqueue]
  rfl

/-! ### The function of each of the first bytes (rule R174) -/

theorem frameByte_zero {s : State} (b : Byte) (h : s.idx = 0) : frameByte s b = syncAccept s b := if_pos h

theorem frameByte_one {s : State} (b : Byte) (h : s.idx = 1) : frameByte s b = byte1 s b := by
  simp [frameByte, h]

theorem frameByte_two {s : State} (b : Byte) (h : s.idx = 2) : frameByte s b = byte2 s b := by
  simp [frameByte, h]

theorem frameByte_three {s : State} (b : Byte) (h : s.idx = 3) : frameByte s b = byte3 s b := by
  simp [frameByte, h]

/-! ### A byte stored and accumulated (rules R73, R115, R119) -/

/-- The XOR-sum takes a byte at an even index as a high byte, at an odd one as a low byte. -/
theorem accumulators_next_eq (a : Accumulators) (b : Byte) (j : Half) :
    a.next b j =
      { cc := updCcitt a.cc b
        c16 := updCrc16 a.c16 b
        x := if j.toNat % 2 = 0 then a.x ^^^ (b ++ (0 : Byte)) else a.x ^^^ ((0 : Byte) ++ b) } := by
  rw [Accumulators.next, updXor16_eq, getLsbD_zero_eq_odd]
  rcases Nat.mod_two_eq_zero_or_one j.toNat with h | h <;> simp [h]

theorem start_eq (cfg : Config) (b : Byte) :
    Accumulators.start cfg b =
      { cc := updCcitt 0xFFFF b, c16 := updCrc16 cfg.crc16Init b, x := b ++ (0 : Byte) } := by
  simp [Accumulators.start, updXor16_eq]

theorem memWrite_accumulate_eq {s : State} {j : Half} (b : Byte) (hidx : s.idx = j) :
    (s.memWrite b).accumulate b =
      { s with
        fbuf := s.fbuf.write j.toNat b
        acc :=
          { cc := updCcitt s.acc.cc b
            c16 := updCrc16 s.acc.c16 b
            x := if j.toNat % 2 = 0 then s.acc.x ^^^ (b ++ (0 : Byte)) else s.acc.x ^^^ ((0 : Byte) ++ b) } } := by
  subst hidx
  rw [State.accumulate, memWrite_acc, memWrite_idx, accumulators_next_eq]
  rfl

/-! ### Byte 0 (rule R142) -/

theorem syncAccept_eq {s : State} (b : Byte) (hidx : s.idx = 0) :
    syncAccept s b = .quiet
      { s with
        fbuf := s.fbuf.write 0 b
        hdr := { sync := b, tv := 0, flen := 0, idc := 0, cells := 0, soc := 0, frac := 0 }
        ctx := Context.zero
        acc := { cc := updCcitt 0xFFFF b, c16 := updCrc16 s.cfg.crc16Init b, x := b ++ (0 : Byte) }
        idx := 1
        ph := .awaitingHeader } := by
  rw [syncAccept, start_eq, State.memWrite, hidx]
  rfl

/-! ### Byte 1 and the dispatch (rules R143, R202 to R206) -/

theorem matchesSignature_iff (s : State) (i : Fin 8) (sync : Byte) (nib : BitVec 4) :
    s.lut[i].matchesSignature sync nib = true ↔ s.EntryMatches i sync nib := by
  simp only [LutEntry.matchesSignature, State.EntryMatches, Bool.and_eq_true, beq_iff_eq, and_assoc]

/-- The table's search ends without an entry exactly where no entry matches. -/
theorem lookup_eq_none_iff (s : State) (sync : Byte) (nib : BitVec 4) :
    s.lookup sync nib = none ↔ ∀ i : Fin 8, ¬ s.EntryMatches i sync nib := by
  simp only [State.lookup, List.find?_eq_none, Vector.mem_toList_iff, Vector.mem_iff_getElem, ← matchesSignature_iff]
  constructor
  · exact fun h i => h _ ⟨i, i.isLt, rfl⟩
  · rintro h _ ⟨i, hi, rfl⟩
    exact h ⟨i, hi⟩

/-- The table's search finds the matching entry of the lowest index. -/
theorem lookup_of_selects {s : State} {i : Fin 8} {sync : Byte} {nib : BitVec 4} (h : s.Selects i sync nib) :
    s.lookup sync nib = some s.lut[i] := by
  obtain ⟨hmatch, hlowest⟩ := h
  rw [← matchesSignature_iff] at hmatch
  refine List.find?_eq_some_iff_getElem.mpr ⟨hmatch, i, by simp, by simp, ?_⟩
  intro j hj
  have hno := hlowest ⟨j, hj.trans i.isLt⟩ hj
  rw [← matchesSignature_iff] at hno
  simpa using hno

theorem frameTypeOfCode_code : ∀ c : BitVec 2, (frameTypeOfCode c).code = c := by decide

/-- What byte 1 leaves whatever the dispatch: it is stored, accumulated and kept as TV. -/
def State.afterTv (s : State) (b : Byte) : State :=
  { s with
    fbuf := s.fbuf.write 1 b
    hdr := { s.hdr with tv := b }
    acc := { cc := updCcitt s.acc.cc b, c16 := updCrc16 s.acc.c16 b, x := s.acc.x ^^^ ((0 : Byte) ++ b) } }

/-- UNKNOWN_SIGNATURE: no entry is selected (rule R203). -/
theorem byte1_unknown {s : State} {b : Byte} (hidx : s.idx = 1) (h : s.lookup s.hdr.sync (typeNibble b) = none) :
    byte1 s b = raiseFault (s.afterTv b) .unknownProtocol .unknownSignature b 1 [b] := by
  rw [byte1, memWrite_accumulate_eq b hidx, h]
  rfl

/-- The selected variant has the version: its descriptor is latched (rules R143, R206). -/
theorem byte1_latches {s : State} {b : Byte} {e : LutEntry} (hidx : s.idx = 1)
    (h : s.lookup s.hdr.sync (typeNibble b) = some e)
    (hversion : s.vcfg[e.variant].versionMask.getLsbD (versionNibble b).toNat = true) :
    byte1 s b =
      .quiet { s.afterTv b with ctx := s.latched e.variant (typeNibble b), idx := 2, ph := .awaitingHeader } := by
  rw [byte1, memWrite_accumulate_eq b hidx, h]
  exact if_pos hversion

/-- BAD_VERSION: the selected variant lacks the version (rule R204). -/
theorem byte1_badVersion {s : State} {b : Byte} {e : LutEntry} (hidx : s.idx = 1)
    (h : s.lookup s.hdr.sync (typeNibble b) = some e)
    (hversion : s.vcfg[e.variant].versionMask.getLsbD (versionNibble b).toNat = false) :
    byte1 s b = raiseFault (s.afterTv b) .malformedHeader .badVersion b 1 [b] := by
  rw [byte1, memWrite_accumulate_eq b hidx, h]
  exact if_neg (by rw [hversion]; exact nofun)

/-- Settles O34. The search finds the selected entry, and its variant's descriptor is latched. -/
theorem dispatchLatchesTheVariant : Obligations.DispatchLatchesTheVariant := by
  unfold Obligations.DispatchLatchesTheVariant
  intro b s i hready hcfg hidx hselects v c hversion
  have hbyte := (frameByte_one (s := { s with offer := none }) b hidx).trans
    (byte1_latches hidx (lookup_of_selects hselects) hversion)
  exact ⟨_, (State.Takes.of_short b hready hcfg hidx (by decide)).exec_of_quiet hbyte, frameTypeOfCode_code _, rfl⟩

/-- Settles O35. Without a selected entry the search ends with none; with one, its variant lacks the version. -/
theorem dispatchFailures : Obligations.DispatchFailures := by
  unfold Obligations.DispatchFailures
  intro b s hready hcfg hidx
  have htakes := State.Takes.of_short b hready hcfg hidx (by decide)
  have hfunction := frameByte_one (s := { s with offer := none }) b hidx
  refine ⟨fun hnone => ?_, fun i hselects hversion => ?_⟩
  · exact htakes.exec_of_raise (hfunction.trans (byte1_unknown hidx ((lookup_eq_none_iff s _ _).mpr hnone))) rfl
  · exact htakes.exec_of_raise (hfunction.trans (byte1_badVersion hidx (lookup_of_selects hselects) hversion)) rfl

/-! ### Bytes 2 and 3, the length (rules R144 to R146) -/

theorem byte2_eq {s : State} (b : Byte) (hidx : s.idx = 2) :
    byte2 s b = .quiet
      { s with
        fbuf := s.fbuf.write 2 b
        hdr := { s.hdr with flen := b ++ (0 : Byte) }
        acc := { cc := updCcitt s.acc.cc b, c16 := updCrc16 s.acc.c16 b, x := s.acc.x ^^^ (b ++ (0 : Byte)) }
        idx := 3
        ph := .awaitingHeader } := by
  rw [byte2, memWrite_accumulate_eq b hidx, high_byte_eq_append]
  rfl

/-- What byte 3 leaves whatever the length: it is stored and accumulated, and FLEN is the declared length. -/
def State.afterLength (s : State) (b : Byte) (len : Half) : State :=
  { s with
    fbuf := s.fbuf.write 3 b
    hdr := { s.hdr with flen := len }
    acc := { cc := updCcitt s.acc.cc b, c16 := updCrc16 s.acc.c16 b, x := s.acc.x ^^^ ((0 : Byte) ++ b) } }

/-- Byte 4 is in the header of every frame. -/
theorem phaseOf_four (s : State) : s.phaseOf 4 = .awaitingHeader := by
  have hH := headerLen_toNat s
  exact if_pos (by bv_omega)

/-- The length checks of byte 3, with the declared length put together. -/
theorem byte3_eq {s : State} {hi : Byte} (b : Byte) (hidx : s.idx = 3) (hflen : s.hdr.flen = hi ++ (0 : Byte)) :
    byte3 s b =
      if hi ++ b < s.minLen then
        raiseFault (s.afterLength b (hi ++ b)) .malformedHeader .lengthTooSmall b 3 [s.hdr.tv, hi, b]
      else if s.cfg.fbufBytes < (hi ++ b).toNat then
        raiseFault (s.afterLength b (hi ++ b)) .malformedHeader .lengthTooLarge b 3 [s.hdr.tv, hi, b]
      else .quiet { s.afterLength b (hi ++ b) with idx := 4, ph := .awaitingHeader } := by
  have hhigh : s.hdr.flen.extractLsb' 8 8 = hi := hflen ▸ BitVec.extractLsb'_append_eq_left
  have hlen : s.hdr.flen ||| b.setWidth 16 = hi ++ b := hflen ▸ append_or_low_byte hi b
  rw [byte3, memWrite_accumulate_eq b hidx, hhigh, hlen]
  simp only [phaseOf_four]
  rfl

/-- Settles O36. Byte 3 puts the length together and compares it: one above FBUF_BYTES is no less than Lmin, which every
FBUF holds. -/
theorem lengthBytes : Obligations.LengthBytes := by
  unfold Obligations.LengthBytes
  constructor
  · intro b s hready hcfg hidx
    have hbyte := (frameByte_two (s := { s with offer := none }) b hidx).trans (byte2_eq b hidx)
    exact (State.Takes.of_short b hready hcfg hidx (by decide)).exec_of_quiet hbyte
  · intro b hi s hready hcfg hidx hflen len
    have htakes := State.Takes.of_short b hready hcfg hidx (by decide)
    have hbyte := (frameByte_three (s := { s with offer := none }) b hidx).trans (byte3_eq b hidx hflen)
    refine ⟨fun hmin hmax => ?_, fun hsmall => ?_, fun hlarge => ?_⟩
    · have haccepted := hbyte.trans ((if_neg (BitVec.not_lt.mpr hmin)).trans (if_neg (Nat.not_lt.mpr hmax)))
      exact htakes.exec_of_quiet haccepted
    · exact htakes.exec_of_raise (hbyte.trans (if_pos hsmall)) rfl
    · have hmin : ¬ len < s.minLen := by
        have hmin_le := (minLen_bounds s).2
        have hsize := le_fbufBytes_of_wf hcfg
        rw [BitVec.lt_def]
        omega
      exact htakes.exec_of_raise (hbyte.trans ((if_neg hmin).trans (if_pos hlarge))) rfl

end Sys2Proof.Machine

end

section
/-! PROOFS. The body bytes (rule R152), and the obligations whose names are those of functions of the model. -/

namespace Sys2Proof.Machine

/-! ### Bytes 4 to L-2 (rule R152) -/

/-- The header after a byte from index 4 on: each field takes the bytes of its own indices (rules R147 to R151). -/
theorem capture_eq (s : State) (b : Byte) (j : Half) :
    s.capture b j =
      { s.hdr with
        idc := if j.toNat = 4 ∨ j.toNat = 5 then s.hdr.idc <<< 8 ||| b.setWidth 16 else s.hdr.idc
        soc := if 6 ≤ j.toNat ∧ j.toNat ≤ 9 then s.hdr.soc <<< 8 ||| b.setWidth 32 else s.hdr.soc
        frac :=
          if 10 ≤ j.toNat ∧ j.toNat < 12 + s.ctx.frac.val then s.hdr.frac <<< 8 ||| b.setWidth 32 else s.hdr.frac
        cells :=
          if s.hasCells = true ∧ (j.toNat = s.ctx.off.toNat ∨ j.toNat = s.ctx.off.toNat + 1) then
            s.hdr.cells <<< 8 ||| b.setWidth 16
          else s.hdr.cells } := by
  have hH := headerLen_toNat s
  have hoff := cellOff_toNat s
  have hoff_lt := s.ctx.off.isLt
  have hfrac : 10 ≤ j ∧ j < s.headerLen ↔ 10 ≤ j.toNat ∧ j.toNat < 12 + s.ctx.frac.val := by bv_omega
  have hcells : j = s.cellOff ∨ j = s.cellOff + 1 ↔
      j.toNat = s.ctx.off.toNat ∨ j.toNat = s.ctx.off.toNat + 1 := by
    bv_omega
  have idc := (capture_idc s b j).trans (if_congr (Q := j.toNat = 4 ∨ j.toNat = 5) (by bv_omega) rfl rfl)
  have soc := (capture_soc s b j).trans (if_congr (Q := 6 ≤ j.toNat ∧ j.toNat ≤ 9) (by bv_omega) rfl rfl)
  have frac := (capture_frac s b j).trans (if_congr hfrac rfl rfl)
  have cells := (capture_cells s b j).trans (if_congr (and_congr_right fun _ => hcells) rfl rfl)
  rw [← idc, ← soc, ← frac, ← cells]
  dsimp only
  rw [← capture_sync s b j, ← capture_tv s b j, ← capture_flen s b j]

theorem bodyByte_eq {s : State} (b : Byte) (hlen : 2 ≤ s.hdr.flen.toNat) :
    bodyByte s b = .quiet
      { s with
        fbuf := s.fbuf.write s.idx.toNat b
        acc :=
          if s.idx.toNat + 2 < s.hdr.flen.toNat then
            { cc := updCcitt s.acc.cc b
              c16 := updCrc16 s.acc.c16 b
              x := if s.idx.toNat % 2 = 0 then s.acc.x ^^^ (b ++ (0 : Byte)) else s.acc.x ^^^ ((0 : Byte) ++ b) }
          else s.acc
        hdr := s.capture b s.idx
        ckr0 := if s.idx.toNat + 2 = s.hdr.flen.toNat then b else s.ckr0
        idx := s.idx + 1
        ph := s.phaseOf (s.idx + 1) } := by
  have hcs : s.cksumStart.toNat + 2 = s.hdr.flen.toNat := by
    unfold State.cksumStart
    bv_omega
  have hbelow : s.idx < s.cksumStart ↔ s.idx.toNat + 2 < s.hdr.flen.toNat := by bv_omega
  have hat : s.idx = s.cksumStart ↔ s.idx.toNat + 2 = s.hdr.flen.toNat := by bv_omega
  rw [bodyByte, accumulators_next_eq]
  simp only [hbelow, hat]
  rfl

end Sys2Proof.Machine

namespace Sys2Proof.Machine.Settled

/-- Settles O33. The candidate is taken, and starts the frame. -/
theorem syncAccept : Obligations.SyncAccept := by
  unfold Obligations.SyncAccept
  intro b s hready hcfg hidx hcand
  have haccepts : s.acceptsIntoFrame b = true := by
    rw [State.acceptsIntoFrame, (isCandidate_iff s b).mpr hcand, Bool.or_true]
  have htakes : s.Takes b := ⟨hready, haccepts, State.idx_lt_of_short hcfg (by rw [hidx]; decide)⟩
  exact htakes.exec_of_quiet ((frameByte_zero (s := { s with offer := none }) b hidx).trans (syncAccept_eq b hidx))

/-- Settles O37. A byte before the last one is a body byte, which its index sends to its field. -/
theorem bodyByte : Obligations.BodyByte := by
  unfold Obligations.BodyByte
  intro b s hready h4 hbody hmax j inCells
  have htakes : s.Takes b := .of_started b hready (by bv_omega) (by omega)
  have hlt : s.idx < s.hdr.flen - 1 := by bv_omega
  have hlen : 2 ≤ s.hdr.flen.toNat := by omega
  have hbyte := (frameByte_body (s := { s with offer := none }) b h4 hlt).trans (bodyByte_eq b hlen)
  have hnext : BitVec.ofNat 16 (j + 1) = s.idx + 1 := by bv_omega
  rw [htakes.exec_of_quiet hbyte, capture_eq, hnext]
  rfl

end Sys2Proof.Machine.Settled

end

section
/-! PROOFS. Every step answers and keeps the invariant (rules R73, R171, R255, R280). -/

namespace Sys2Proof.Machine

/-! ### Steps that answer with a state of the invariant -/

/-- The outcome is a next state, and it meets the invariant. -/
def AnswersInv (o : StepOutcome) : Prop := ∃ t, o = .next t ∧ t.Inv

theorem exec_answersInv {s : State} (h : s.Inv) (i : Instr) : AnswersInv (exec i s) := by
  obtain ⟨t, ht⟩ := exec_of_fits h.fits i
  exact ⟨t, ht, exec_keeps_inv h ht⟩

/-- The idle step leaves what NOP's step leaves (rule R230). -/
theorem idleEdge_answersInv {s : State} (h : s.Inv) : AnswersInv (idleEdge s) := exec_answersInv h .nop

/-- A reset leaves the reset state with the parameters kept, and the invariant asks of these that they are legal. -/
theorem resetEdge_inv {s : State} (h : s.cfg.wf = true) : (resetEdge s).Inv :=
  ⟨h, reset_inv.fbuf_wf, rfl, reset_inv.no_structural_mismatch, reset_inv.replay_ok,
    ⟨fun _ _ => rfl, fun _ h4 => absurd h4 (by simp [resetEdge, State.reset]), nofun, nofun⟩⟩

theorem settleOutcome_answersInv {o : StepOutcome} (h : AnswersInv o) (hold : Bool) :
    AnswersInv (settleOutcome hold o) := by
  obtain ⟨t, rfl, ht⟩ := h
  obtain ⟨offer, ho⟩ := settleOffer_eq t hold
  exact ⟨_, rfl, ho ▸ ht.withInputs offer t.script⟩

theorem stepLine_answersInv {s : State} (h : s.Inv) (l : Line) : AnswersInv (stepLine l s) := by
  unfold stepLine
  split
  next => exact settleOutcome_answersInv ⟨_, rfl, resetEdge_inv h.cfg_wf⟩ l.hold
  split
  next p _ => exact settleOutcome_answersInv (exec_answersInv h _) l.hold
  next => exact settleOutcome_answersInv (idleEdge_answersInv h) l.hold

/-- Settles O55. A step is a reset, an operation or an idle step, on a state that differs in its inputs alone. -/
theorem stepKeepsTheInvariant : Obligations.StepKeepsTheInvariant := by
  unfold Obligations.StepKeepsTheInvariant
  intro s h
  cases ho : s.offer with
  | some b =>
    rw [step_of_offer ho]
    exact exec_answersInv h _
  | none =>
    cases hs : s.script with
    | nil =>
      rw [step_of_no_input ho hs]
      exact idleEdge_answersInv h
    | cons l rest =>
      rw [step_of_line ho hs]
      exact stepLine_answersInv (h.withInputs l.byte rest) l

end Sys2Proof.Machine

end

section
/-! PROOFS. A header fault delays the stream by a bounded replay (rules R180 to R182, R274). -/

namespace Sys2Proof.Machine

/-! ### How long the replay can last (rule R181) -/

/-- A bound on the idle steps until the stream is ready again. Each queued byte costs at most three: its own step, and where
it is byte 1 of a frame that fails, the Faulted step and its replay as a hunted byte. The first hunted byte cannot fail. -/
def State.resumeBound (s : State) : Nat :=
  if s.ph = .faulted then 1 + (3 * s.rq.length - 2)
  else if s.idx = 0 then 3 * s.rq.length - 2
  else 3 * s.rq.length

/-- The block is enabled, holds no accepted frame, and is offered no byte. -/
structure State.Resuming (s : State) : Prop where
  inv : s.Inv
  en : s.en = true
  not_complete : s.ph ≠ .complete
  offer : s.offer = none

/-- The longest replay is three bytes, and one that is in progress has used up the bytes before IDX. -/
theorem State.Inv.resumeBound_le {s : State} (h : s.Inv) : s.resumeBound ≤ 8 := by
  obtain ⟨hlen, hreplay⟩ := h.replay_ok
  unfold State.resumeBound
  split
  next => omega
  next hf =>
  split
  next => omega
  next h0 =>
    by_cases hq : s.rq = []
    · simp [hq]
    · obtain ⟨hph, -, -, hroom⟩ := hreplay hq
      have hsum := hroom (hph.resolve_right hf)
      bv_omega

/-- What a replayed byte leaves, with `n` bytes behind it: not Complete, and closer to the end of the replay. -/
structure ReplayProgress (n : Nat) (idx : Half) (t : State) : Prop where
  not_complete : t.ph ≠ .complete
  bound : t.resumeBound ≤ 3 * n + if idx = 0 then 0 else 2

/-- Byte 1 that fails is queued again in front of the rest. -/
theorem byte1_replayProgress {s : State} (b : Byte) (hidx : s.idx = 1) : ReplayProgress s.rq.length s.idx (byte1 s b).st := by
  rw [hidx]
  unfold byte1
  dsimp only
  split
  next => exact ⟨nofun, by simp [State.resumeBound]; omega⟩
  split
  next => exact ⟨nofun, by simp [State.resumeBound, StreamResult.quiet]⟩
  next => exact ⟨nofun, by simp [State.resumeBound]; omega⟩

/-- Of the bytes a replay can process, at the indices 0 to 2, byte 1 alone can fail. -/
theorem frameByte_replayProgress {s : State} (b : Byte) (hidx : s.idx.toNat ≤ 2) :
    ReplayProgress s.rq.length s.idx (frameByte s b).st := by
  have hcases : s.idx = 0 ∨ s.idx = 1 ∨ s.idx = 2 := by bv_omega
  rcases hcases with h0 | h1 | h2
  · rw [frameByte_zero b h0, h0]
    exact ⟨nofun, by simp [State.resumeBound, syncAccept, StreamResult.quiet]⟩
  · rw [frameByte_one b h1]
    exact byte1_replayProgress b h1
  · rw [frameByte_two b h2, h2]
    exact ⟨nofun, by simp [State.resumeBound, byte2, StreamResult.quiet]⟩

theorem huntDiscard_unlocked {s : State} (b : Byte) (h : s.locked = false) :
    huntDiscard s b = { st := { s with cnt := s.cnt.bump .skipped }, ev := none, inc := [.skipped] } := by
  simp [huntDiscard, h]

/-- A block that replays is not locked, so a discarded byte raises nothing. -/
theorem huntDiscard_replayProgress {s : State} (b : Byte) (hidx : s.idx = 0) (hlocked : s.locked = false)
    (hph : s.ph = .awaitingHeader) : ReplayProgress s.rq.length s.idx (huntDiscard s b).st := by
  rw [huntDiscard_unlocked b hlocked]
  exact ⟨by simp [hph], by simp [State.resumeBound, hph, hidx]⟩

theorem nextByte_of_replay {s : State} {b : Byte} {q : List Byte} (hen : s.en = true) (hph : s.ph = .awaitingHeader)
    (hrq : s.rq = b :: q) : s.nextByte = some (b, { s with rq := q }) := by
  unfold State.nextByte
  split
  next b' q' hq =>
    obtain ⟨rfl, rfl⟩ := List.cons.inj (hrq.symm.trans hq)
    simp [hen, hph]
  next hq => exact absurd (hrq.symm.trans hq) nofun

theorem process_offer {s : State} {b : Byte} {r : StreamResult} (h : process s b = .ok r) : r.st.offer = s.offer := by
  rcases process_cases h with ⟨-, rfl⟩ | ⟨-, -, rfl⟩
  · exact huntDiscard_offer s b
  · exact frameByte_offer s b

/-- Where the stream is not ready its part of the step brings it closer. -/
theorem State.Resuming.streamPart_progress {s : State} (h : s.Resuming) (hready : s.inReady ≠ true) :
    ∃ r, streamPart s = .ok r ∧ r.st.ph ≠ .complete ∧ r.st.offer = none ∧ r.st.resumeBound < s.resumeBound := by
  by_cases hf : s.ph = .faulted
  · refine ⟨_, streamPart_faulted hf, nofun, h.offer, ?_⟩
    simp [State.resumeBound, hf]
  cases hrq : s.rq with
  | nil => exact absurd ((inReady_iff s).mpr ⟨h.en, hrq, h.not_complete, hf⟩) hready
  | cons b q =>
    obtain ⟨hph, -, hlocked, hroom⟩ := h.inv.replay_ok.2 (by simp [hrq])
    have haw := hph.resolve_right hf
    have hsum := hroom haw
    have hn := nextByte_of_replay h.en haw hrq
    rw [hrq, List.length_cons] at hsum
    obtain ⟨r, hr⟩ := streamPart_of_fits h.inv.fits
    have hprocess := (streamPart_byte hf hn).symm.trans hr
    have hprogress : ReplayProgress q.length s.idx r.st := by
      rcases process_cases hprocess with ⟨ha, rfl⟩ | ⟨-, -, rfl⟩
      · exact huntDiscard_replayProgress b ((acceptsIntoFrame_eq_false_iff _ b).mp ha).1 hlocked haw
      · exact frameByte_replayProgress (s := { s with rq := q }) b (by dsimp only; omega)
    have hbound := hprogress.bound
    have hs : s.resumeBound = if s.idx = 0 then 3 * (q.length + 1) - 2 else 3 * (q.length + 1) := by
      rw [State.resumeBound, if_neg hf, hrq, List.length_cons]
    refine ⟨r, hr, hprogress.not_complete, (process_offer hprocess).trans h.offer, ?_⟩
    split at hs <;> split at hbound <;> omega

/-- An idle step of a block that is not ready brings it closer to ready. -/
theorem State.Resuming.idle_progress {s : State} (h : s.Resuming) (hready : s.inReady ≠ true) :
    ∃ t, idleEdge s = .next t ∧ t.Resuming ∧ t.resumeBound < s.resumeBound := by
  obtain ⟨r, hr, hcomplete, hoffer, hlt⟩ := h.streamPart_progress hready
  have hidle := idleEdge_of_stream hr
  exact ⟨_, hidle,
    ⟨exec_keeps_inv (i := .nop) h.inv hidle, (streamPart_settings hr).en.trans h.en, hcomplete, hoffer⟩, hlt⟩

theorem idles_succ {s t : State} (h : idleEdge s = .next t) (n : Nat) : idles (n + 1) s = idles n t := by
  simp only [idles, h]

/-- Idle steps lead to a ready stream within the bound. -/
theorem State.Resuming.resumes {s : State} (h : s.Resuming) {n : Nat} (hn : s.resumeBound ≤ n) :
    ∃ k ≤ n, ∃ t, idles k s = .next t ∧ t.inReady = true := by
  induction n generalizing s with
  | zero =>
    refine ⟨0, le_rfl, s, rfl, ?_⟩
    by_contra hready
    obtain ⟨_, -, -, hlt⟩ := h.idle_progress hready
    omega
  | succ n ih =>
    by_cases hready : s.inReady = true
    · exact ⟨0, Nat.zero_le _, s, rfl, hready⟩
    · obtain ⟨t, hidle, ht, hlt⟩ := h.idle_progress hready
      obtain ⟨k, hk, u, hu, huready⟩ := ih ht (by omega)
      exact ⟨k + 1, Nat.succ_le_succ hk, u, (idles_succ hidle k).trans hu, huready⟩

/-- Settles O58. The bound falls with each idle step, and in a state of the invariant it is eight at most. -/
theorem streamResumesWithinEightSteps : Obligations.StreamResumesWithinEightSteps := by
  unfold Obligations.StreamResumesWithinEightSteps
  exact fun _ hinv hen hcomplete hoffer => State.Resuming.resumes ⟨hinv, hen, hcomplete, hoffer⟩ hinv.resumeBound_le

end Sys2Proof.Machine

end

section
/-! PROOFS. A byte's processing does not read what stands beside it: bytes queued behind it, the port, the pending event and
the recorded outputs (rules R180, R186, R262). -/

namespace Sys2Proof.Machine

/-! ### What stands beside the processed byte -/

/-- What stands beside a byte that is processed: the bytes queued behind the replay, the byte on the port, the pending event,
and the recorded outputs. -/
structure Surroundings where
  behind : List Byte
  port : Option Byte
  pending : Option StreamEvent
  recorded : Outputs

/-- The state in other surroundings. -/
def State.within (s : State) (c : Surroundings) : State :=
  { s with rq := s.rq ++ c.behind, offer := c.port, evq := c.pending, out := c.recorded }

/-- The result of a byte in other surroundings. -/
def StreamResult.within (r : StreamResult) (c : Surroundings) : StreamResult := { r with st := r.st.within c }

theorem within_ite {p : Prop} [Decidable p] (r r' : StreamResult) (c : Surroundings) :
    (if p then r else r').within c = if p then r.within c else r'.within c :=
  apply_ite (StreamResult.within · c) p r r'

theorem byte1_within (s : State) (b : Byte) (c : Surroundings) : byte1 (s.within c) b = (byte1 s b).within c := by
  have hlookup : (s.within c).lookup (s.within c).hdr.sync (typeNibble b) = s.lookup s.hdr.sync (typeNibble b) := rfl
  unfold byte1
  rw [hlookup]
  dsimp only
  split
  next => rfl
  next => rw [within_ite]; rfl

theorem byte3_within (s : State) (b : Byte) (c : Surroundings) : byte3 (s.within c) b = (byte3 s b).within c := by
  unfold byte3
  dsimp only
  rw [within_ite, within_ite]
  rfl

theorem lastByte_within (s : State) (b : Byte) (c : Surroundings) : lastByte (s.within c) b = (lastByte s b).within c := by
  unfold lastByte
  dsimp only
  rw [within_ite]
  rfl

theorem frameByte_within (s : State) (b : Byte) (c : Surroundings) :
    frameByte (s.within c) b = (frameByte s b).within c := by
  unfold frameByte
  simp only [within_ite, byte1_within, byte3_within, lastByte_within]
  rfl

theorem huntDiscard_within (s : State) (b : Byte) (c : Surroundings) :
    huntDiscard (s.within c) b = (huntDiscard s b).within c := by
  unfold huntDiscard
  dsimp only
  rw [within_ite]
  rfl

theorem process_within {s : State} {b : Byte} {r : StreamResult} (h : process s b = .ok r) (c : Surroundings) :
    process (s.within c) b = .ok (r.within c) := by
  rcases process_cases h with ⟨ha, rfl⟩ | ⟨ha, hfits, rfl⟩
  · have ha' : (s.within c).acceptsIntoFrame b = false := ha
    rw [process_discarded ha', huntDiscard_within]
  · have ha' : (s.within c).acceptsIntoFrame b = true := ha
    rw [process_accepted ha' hfits, frameByte_within]

/-! ### A replayed byte and a port byte (rule R180) -/

theorem process_of_fits {s : State} (h : s.idx.toNat < s.cfg.fbufBytes) (b : Byte) : ∃ r, process s b = .ok r := by
  cases ha : s.acceptsIntoFrame b with
  | true => exact ⟨_, process_accepted ha h⟩
  | false => exact ⟨_, process_discarded ha⟩

/-- The step that offers a byte to a ready block processes it, the port emptied. -/
theorem exec_streamByte_of_process {s : State} {b : Byte} {r : StreamResult} (hready : s.inReady = true)
    (h : process { s with offer := none } b = .ok r) :
    exec (.streamByte b) s = .next (r.st.finish r.ev false (s.outputs none)) := by
  have hstream : streamPart (s.presenting (.streamByte b)) = .ok r :=
    (streamPart_byte (s := s.presenting (.streamByte b)) (receiving_of_inReady hready).2 (nextByte_ready hready)).trans h
  exact exec_of_stream (i := .streamByte b) hstream

/-- The idle step with a byte to replay processes it. -/
theorem idleEdge_of_replay {s : State} {b : Byte} {q : List Byte} {r : StreamResult} (hen : s.en = true)
    (hph : s.ph = .awaitingHeader) (hrq : s.rq = b :: q) (h : process { s with rq := q } b = .ok r) :
    idleEdge s = .next (r.st.finish r.ev false (s.outputs none)) :=
  idleEdge_of_stream ((streamPart_byte (by rw [hph]; exact nofun) (nextByte_of_replay hen hph hrq)).trans h)

/-- Settles O39. The replayed byte is processed as the port byte is, with the rest of the queue behind it. -/
theorem replayIsAsIfFromThePort : Obligations.ReplayIsAsIfFromThePort := by
  unfold Obligations.ReplayIsAsIfFromThePort
  intro b q s hen hph hrq hfits
  have hlt : s.idx.toNat < s.cfg.fbufBytes := by simpa [State.fits, hph] using hfits
  obtain ⟨r, hr⟩ := process_of_fits (s := { s with rq := [], offer := none }) hlt b
  have hready : State.inReady { s with rq := [] } = true := (inReady_iff _).mpr ⟨hen, rfl, by simp [hph], by simp [hph]⟩
  exact ⟨_, exec_streamByte_of_process hready hr,
    idleEdge_of_replay hen hph hrq (process_within hr ⟨q, s.offer, s.evq, s.out⟩)⟩

end Sys2Proof.Machine

end

section
/-! PROOFS. Idle steps, and gaps between the bytes (rules R186, R191). -/

namespace Sys2Proof.Machine

/-! ### The idle step (rule R191) -/

theorem idleEdge_of_quiet {s : State} (h : s.quiet) : idleEdge s = .next { s with evq := none, out := s.outputs none } := by
  rw [idleEdge_of_stream (streamPart_of_quiet h), State.finish, quiet_st, quiet_ev, mergeEvents_nothing]

/-- Settles O30. Nothing is offered or taken, and nothing is replayed. -/
theorem idleStep : Obligations.IdleStep := by
  unfold Obligations.IdleStep
  exact fun _ hf hrq ho => idleEdge_of_quiet ⟨hf, hrq.imp_right .inl, ho⟩

/-! ### Gaps (rule R186) -/

/-- The second state is the first but for the pending event and the recorded outputs. -/
def State.SameButRecord (s u : State) : Prop := ∃ e o, u = { s with evq := e, out := o }

/-- A ready block to which nothing is offered is idle for as long as nothing comes. -/
theorem idles_of_ready {s : State} (hready : s.inReady = true) (ho : s.offer = none) (n : Nat) :
    ∃ u, idles n s = .next u ∧ s.SameButRecord u := by
  induction n generalizing s with
  | zero => exact ⟨s, rfl, s.evq, s.out, rfl⟩
  | succ n ih =>
    obtain ⟨-, hrq, -⟩ := (inReady_iff s).mp hready
    have hquiet : s.quiet := ⟨(receiving_of_inReady hready).2, .inl hrq, .inl ho⟩
    obtain ⟨u, hu, e, o, hsame⟩ := ih (s := { s with evq := none, out := s.outputs none }) hready ho
    exact ⟨u, (idles_succ (idleEdge_of_quiet hquiet) n).trans hu, e, o, hsame⟩

theorem within_own_queue_and_port {s : State} {port : Option Byte} (h : s.offer = port) (e : Option StreamEvent)
    (o : Outputs) : s.within ⟨[], port, e, o⟩ = { s with evq := e, out := o } := by
  simp only [State.within, List.append_nil, ← h]

/-- Everything a step that offers a byte to a ready block can do: it processes the byte, the port emptied. -/
theorem exec_streamByte_next {s t : State} {b : Byte} (hready : s.inReady = true)
    (h : exec (.streamByte b) s = .next t) :
    ∃ r, process { s with offer := none } b = .ok r ∧ t = r.st.finish r.ev false (s.outputs none) := by
  obtain ⟨r, hr, rfl⟩ := exec_next h
  have hstream := streamPart_byte (s := s.presenting (.streamByte b)) (receiving_of_inReady hready).2
    (nextByte_ready hready)
  exact ⟨r, hstream.symm.trans hr, rfl⟩

theorem exec_streamByte_offer {s t : State} {b : Byte} (hready : s.inReady = true)
    (h : exec (.streamByte b) s = .next t) : t.offer = none := by
  obtain ⟨r, hr, rfl⟩ := exec_streamByte_next hready h
  exact process_offer hr

/-- A taken byte leaves the same whatever is pending and recorded. -/
theorem exec_streamByte_sameButRecord {s u t : State} {b : Byte} (hready : s.inReady = true) (hu : s.SameButRecord u)
    (h : exec (.streamByte b) s = .next t) :
    ∃ v, exec (.streamByte b) u = .next v ∧ t.SameButRecord v := by
  obtain ⟨e, o, rfl⟩ := hu
  obtain ⟨r, hr, rfl⟩ := exec_streamByte_next hready h
  have hoffer : r.st.offer = none := process_offer hr
  have hrecord := process_within hr ⟨[], none, e, o⟩
  rw [StreamResult.within, within_own_queue_and_port hoffer, within_own_queue_and_port rfl] at hrecord
  exact ⟨_, exec_streamByte_of_process (s := { s with evq := e, out := o }) hready hrecord, _, _, rfl⟩

theorem feedWithGaps_cons {n : Nat} {b : Byte} {s u v : State} (hidle : idles n s = .next u)
    (hbyte : exec (.streamByte b) u = .next v) (gs : List (Nat × Byte)) :
    feedWithGaps ((n, b) :: gs) s = feedWithGaps gs v := by
  simp only [feedWithGaps, hidle, hbyte]

/-- Gap by gap and byte by byte, the two runs stay the same but for the record. -/
theorem feedWithGaps_sameButRecord {gs : List (Nat × Byte)} {s s' t : State} (ho : s.offer = none)
    (hsame : s.SameButRecord s') (ht : TakesEach (gs.map Prod.snd) s) (hf : feed (gs.map Prod.snd) s = .next t) :
    ∃ u, feedWithGaps gs s' = .next u ∧ t.SameButRecord u := by
  induction gs generalizing s s' with
  | nil => exact ⟨s', rfl, Host.Outcome.next.inj hf ▸ hsame⟩
  | cons g gs ih =>
    obtain ⟨n, b⟩ := g
    obtain ⟨hready, m, hm, htm⟩ := ht
    obtain ⟨e, o, rfl⟩ := hsame
    obtain ⟨u, hidle, e', o', rfl⟩ := idles_of_ready (s := { s with evq := e, out := o }) hready ho n
    obtain ⟨v, hv, hmv⟩ := exec_streamByte_sameButRecord hready ⟨e', o', rfl⟩ hm
    obtain ⟨w, hw, htw⟩ := ih (exec_streamByte_offer hready hm) hmv htm (feed_cons hm _ ▸ hf)
    exact ⟨w, (feedWithGaps_cons hidle hv gs).trans hw, htw⟩

/-- Settles O59. Idle steps of a ready block change the record alone, and no byte's processing reads it. -/
theorem partialReadResilience : Obligations.PartialReadResilience := by
  unfold Obligations.PartialReadResilience
  intro gs s t ho ht hf
  obtain ⟨u, hu, e, o, rfl⟩ := feedWithGaps_sameButRecord ho ⟨s.evq, s.out, rfl⟩ ht hf
  exact ⟨_, hu, rfl⟩

end Sys2Proof.Machine

end

section
/-! PROOFS. The Faulted step, and the held frame of Complete (rules R173, R182, R183). -/

namespace Sys2Proof.Machine

/-! ### Bus parts that leave the block where it stands (rules R231, R232) -/

/-- The two states agree on where the block stands: the phase, IDX, LOCKED and the replay queue. -/
structure State.SamePlace (s t : State) : Prop where
  ph : t.ph = s.ph
  idx : t.idx = s.idx
  locked : t.locked = s.locked
  rq : t.rq = s.rq

/-- Outside Complete RELEASE is refused. -/
theorem releasePart_place {s : State} (h : s.ph ≠ .complete) (inc : List Counter) :
    s.SamePlace (releasePart inc s).1 := by
  rw [releasePart, if_neg h]
  exact ⟨rfl, rfl, rfl, rfl⟩

theorem ckInitPart_place (c : BitVec 2) (inc : List Counter) (s : State) : s.SamePlace (ckInitPart c inc s).1 := by
  unfold ckInitPart
  split <;> exact ⟨rfl, rfl, rfl, rfl⟩

/-- Only the word of ABORT, and in Complete that of RELEASE, moves the block. -/
theorem commandPart_place {d : Word} {s : State} (habort : d ≠ 0x00000001)
    (hrelease : s.ph = .complete → d ≠ 0x00000002) (inc : List Counter) : s.SamePlace (commandPart d inc s).1 := by
  have hsame : s.SamePlace s := ⟨rfl, rfl, rfl, rfl⟩
  unfold commandPart
  dsimp only
  split
  next => exact hsame
  next hmbz =>
  have hword {op : Byte} (harg : ¬ d.extractLsb' 8 8 ≠ 0) (hop : d.extractLsb' 0 8 = op) : d = op.setWidth 32 :=
    word_of_fields (not_not.mp hmbz) (not_not.mp harg) hop
  split
  next => split <;> exact hsame
  split
  next hop =>
    split
    next => exact hsame
    next harg => exact absurd (hword harg hop) habort
  split
  next hop =>
    split
    next => exact hsame
    next harg => exact releasePart_place (fun hc => hrelease hc (hword harg hop)) inc
  split
  next => split <;> exact ⟨rfl, rfl, rfl, rfl⟩
  split
  next =>
    split
    next => exact hsame
    next => exact ckInitPart_place _ inc s
  split <;> exact ⟨rfl, rfl, rfl, rfl⟩

theorem lutWrite_place (s : State) (i : Fin 8) (d : Word) : s.SamePlace (lutWrite s i d).1 := by
  unfold lutWrite
  split <;> exact ⟨rfl, rfl, rfl, rfl⟩

theorem vcfgWrite_place (s : State) (v : Fin 5) (d : Word) : s.SamePlace (vcfgWrite s v d).1 := by
  unfold vcfgWrite
  split <;> exact ⟨rfl, rfl, rfl, rfl⟩

theorem vtmapWrite_place (s : State) (v : Fin 5) (d : Word) : s.SamePlace (vtmapWrite s v d).1 := by
  unfold vtmapWrite
  split <;> exact ⟨rfl, rfl, rfl, rfl⟩

theorem writePart_place {a : Addr} {d : Word} {s : State} (habort : ¬ WritesCmd (.csrWrite a d) 0x00000001)
    (hrelease : s.ph = .complete → ¬ WritesCmd (.csrWrite a d) 0x00000002) (inc : List Counter) :
    s.SamePlace (writePart a d inc s).1 := by
  unfold writePart
  split
  case h_4 hcmd =>
    have hwrites {w : Word} (hd : d = w) : WritesCmd (.csrWrite a d) w :=
      .inl ⟨a, addressesCmd_of_hostWord hcmd, by rw [hd]⟩
    exact commandPart_place (fun hd => habort (hwrites hd)) (fun hc hd => hrelease hc (hwrites hd)) inc
  case h_5 i _ => exact lutWrite_place s i d
  case h_6 v _ => exact vcfgWrite_place s v d
  case h_7 v _ => exact vtmapWrite_place s v d
  all_goals exact ⟨rfl, rfl, rfl, rfl⟩

/-- Only ABORT, and in Complete RELEASE, moves the block. -/
theorem busOf_place {i : Instr} {s : State} (habort : ¬ WritesCmd i 0x00000001)
    (hrelease : s.ph = .complete → ¬ WritesCmd i 0x00000002) (inc : List Counter) :
    s.SamePlace ((busOf i).2 inc s).1 := by
  cases i with
  | csrWrite a d => exact writePart_place habort hrelease inc
  | abort => exact absurd (.inr rfl) habort
  | release => exact releasePart_place (fun hc => hrelease hc (.inr rfl)) inc
  | ckInit c => exact ckInitPart_place c inc s
  | _ => exact ⟨rfl, rfl, rfl, rfl⟩

/-! ### The Faulted step (rule R182) -/

/-- A hunting block at IDX 0 hunts at IDX 0 after any operation's bus part. -/
theorem busOf_hunting (i : Instr) (inc : List Counter) {s : State} (hph : s.ph = .awaitingHeader) (hidx : s.idx = 0) :
    ((busOf i).2 inc s).1.ph = .awaitingHeader ∧ ((busOf i).2 inc s).1.idx = 0 := by
  cases busOf_progress i inc s with
  | kept e => exact ⟨e.ph.trans hph, e.idx.trans hidx⟩
  | frameEnded ph idx _ _ => exact ⟨ph, idx⟩
  | countersCleared _ ph idx _ => exact ⟨ph.trans hph, idx.trans hidx⟩

theorem busOf_rq_of_not_complete (i : Instr) (inc : List Counter) {s : State} (hph : s.ph ≠ .complete) :
    ((busOf i).2 inc s).1.rq = s.rq ∨ (((busOf i).2 inc s).1.rq = [] ∧ WritesCmd i 0x00000001) := by
  by_cases habort : WritesCmd i 0x00000001
  · exact (busOf_addsNothing i inc s).rq.imp_right (⟨·, habort⟩)
  · exact .inl (busOf_place habort (absurd · hph) inc).rq

@[simp] theorem presenting_rq (s : State) (i : Instr) : (s.presenting i).rq = s.rq := by cases i <;> rfl

@[simp] theorem presenting_ctx (s : State) (i : Instr) : (s.presenting i).ctx = s.ctx := by cases i <;> rfl

@[simp] theorem presenting_acc (s : State) (i : Instr) : (s.presenting i).acc = s.acc := by cases i <;> rfl

@[simp] theorem presenting_ckComp (s : State) (i : Instr) : (s.presenting i).ckComp = s.ckComp := by cases i <;> rfl

@[simp] theorem presenting_ckRecv (s : State) (i : Instr) : (s.presenting i).ckRecv = s.ckRecv := by cases i <;> rfl

/-- Settles O40. The stream part is the recovery, and from a hunting block no bus part starts anything. -/
theorem faultedLastsOneStep : Obligations.FaultedLastsOneStep := by
  unfold Obligations.FaultedLastsOneStep
  intro i s hf
  have hstream := streamPart_faulted ((presenting_ph s i).trans hf)
  have f := busOf_frame i [] (faultRecover (s.presenting i))
  obtain ⟨hph, hidx⟩ := busOf_hunting i [] (faultRecover_ph (s.presenting i)) (faultRecover_idx _)
  have hrq := busOf_rq_of_not_complete i [] (s := faultRecover (s.presenting i)) nofun
  rw [faultRecover_rq, presenting_rq] at hrq
  exact ⟨_, exec_of_stream hstream, hph, hidx, rfl, f.err.trans (presenting_err s i), f.fbuf.trans (presenting_fbuf s i),
    f.hdr.trans (presenting_hdr s i), f.ctx.trans (presenting_ctx s i), f.acc.trans (presenting_acc s i), f.offer, hrq⟩

/-! ### The held frame (rules R173, R183) -/

/-- In Complete no byte is taken, from the port or from a replay. -/
theorem quiet_of_complete {s : State} (h : s.ph = .complete) : s.quiet :=
  ⟨by simp [h], .inr (.inr (by simp [h])), .inr (by simp [State.inReady, h])⟩

/-- Settles O41. The stream part does nothing, and no bus part touches the frame's bytes and records. -/
theorem completeHoldsTheFrame : Obligations.CompleteHoldsTheFrame := by
  unfold Obligations.CompleteHoldsTheFrame
  intro i s hc
  have hstream := streamPart_of_quiet (quiet_of_complete ((presenting_ph s i).trans hc))
  have f := busOf_frame i [] (s.presenting i)
  refine ⟨_, exec_of_stream hstream, f.fbuf.trans (presenting_fbuf s i), f.hdr.trans (presenting_hdr s i),
    f.ctx.trans (presenting_ctx s i), f.acc.trans (presenting_acc s i), f.ckComp.trans (presenting_ckComp s i),
    f.ckRecv.trans (presenting_ckRecv s i), f.err.trans (presenting_err s i), f.offer, fun habort hrelease => ?_⟩
  have p := busOf_place (s := s.presenting i) habort (fun _ => hrelease) []
  exact ⟨p.ph.trans ((presenting_ph s i).trans hc), p.idx.trans (presenting_idx s i), p.locked.trans (presenting_locked s i),
    p.rq.trans (presenting_rq s i)⟩

end Sys2Proof.Machine

end

section
/-! PROOFS. The need-N-more report (rule R184), and the bytes that hunting and the last index take (rules R172, R175, R190). -/

namespace Sys2Proof.Machine

/-! ### The need-N-more report (rule R184) -/

/-- The distance to an end that lies ahead. -/
theorem sub_reaches {i n : Half} (h : i.toNat < n.toNat) : i.toNat + (n - i).toNat = n.toNat ∧ 1 ≤ (n - i).toNat := by
  bv_omega

/-- The end of the range of indices that the block's phase stands for (rule R184); IDX itself where no byte is awaited. -/
def State.phaseEnd (s : State) : Half :=
  match s.ph with
  | .awaitingHeader => s.headerLen
  | .headerParsed => s.bodyStart
  | .parsingCells => s.footStart
  | .awaitingFooter => s.cksumStart
  | .awaitingChecksum => s.hdr.flen
  | .complete => s.idx
  | .faulted => s.idx

/-- While a frame is hunted for or received, IDX lies below the end of its phase's range. -/
theorem State.Inv.idx_lt_phaseEnd {s : State} (h : s.Inv) (hr : s.ph.receiving) : s.idx.toNat < s.phaseEnd.toNat := by
  obtain ⟨hshort, hlong, -, -⟩ := h.position_ok
  have hH := headerLen_toNat s
  by_cases h4 : 4 ≤ s.idx.toNat
  · obtain ⟨hok, hlt, hph⟩ := hlong hr h4
    obtain ⟨h0, h1, h2, h3, -⟩ := hok.phaseOf_iff s.idx
    rw [← hph] at h0 h1 h2 h3
    unfold State.phaseEnd
    split
    next hp => exact h0.mp hp
    next hp => exact (h1.mp hp).2
    next hp => exact (h2.mp hp).2
    next hp => exact (h3.mp hp).2
    next => exact hlt
    next hp => exact absurd hp hr.1
    next hp => exact absurd hp hr.2
  · have hp := hshort hr (by omega)
    simp only [State.phaseEnd, hp]
    omega

/-- NEED is the distance to the end of the phase, but for the first two bytes. -/
theorem need_eq {s : State} (h : s.ph = .awaitingHeader → 2 ≤ s.idx.toNat) : s.need = s.phaseEnd - s.idx := by
  cases hp : s.ph with
  | awaitingHeader =>
    have h1 : ¬ s.idx ≤ 1 := by
      have := h hp
      bv_omega
    simp only [State.need, State.phaseEnd, hp, h1, if_false]
  | complete | faulted => simp [State.need, State.phaseEnd, hp]
  | _ => simp only [State.need, State.phaseEnd, hp]

/-- Settles O49. In a phase of the frame NEED is the distance from IDX to the phase's end, which lies ahead. -/
theorem needReport : Obligations.NeedReport := by
  unfold Obligations.NeedReport
  intro s h
  have hreach (hr : s.ph.receiving) (h2 : s.ph = .awaitingHeader → 2 ≤ s.idx.toNat) :
      s.idx.toNat + s.need.toNat = s.phaseEnd.toNat ∧ 1 ≤ s.need.toNat :=
    need_eq h2 ▸ sub_reaches (h.idx_lt_phaseEnd hr)
  have hone (hp : s.ph = .awaitingHeader) (h1 : s.idx.toNat ≤ 1) : s.need = 1 := by
    simp only [State.need, hp]
    exact if_pos (by bv_omega)
  have hend {p : Phase} {n : Half} (hp : s.ph = p) (hr : p.receiving) (hn : s.phaseEnd = n)
      (h2 : p = .awaitingHeader → 2 ≤ s.idx.toNat) : s.idx.toNat + s.need.toNat = n.toNat := by
    subst hp
    exact hn ▸ (hreach hr h2).1
  refine ⟨fun hp => ?_, fun hr => ?_, hone, fun hp h2 => ?_, fun hp => ?_, fun hp => ?_, fun hp => ?_, fun hp => ?_⟩
  · rcases hp with hp | hp <;> simp [State.need, hp]
  · by_cases h1 : s.ph = .awaitingHeader ∧ s.idx.toNat ≤ 1
    · rw [hone h1.1 h1.2]
      decide
    · exact (hreach hr fun hp => Nat.lt_of_not_le (not_and.mp h1 hp)).2
  · exact hend hp ⟨nofun, nofun⟩ (by simp [State.phaseEnd, hp]) fun _ => h2
  all_goals exact hend hp ⟨nofun, nofun⟩ (by simp [State.phaseEnd, hp]) nofun

/-! ### Which bytes are taken (rules R56, R172) -/

/-- A byte is taken from the port only where the stream is ready. -/
theorem streamPart_offer_of_not_ready {s : State} {r : StreamResult} (hready : s.inReady = false)
    (h : streamPart s = .ok r) : r.st.offer = s.offer := by
  by_cases hf : s.ph = .faulted
  · obtain rfl := Except.ok.inj ((streamPart_faulted hf).symm.trans h)
    rfl
  cases hn : s.nextByte with
  | none =>
    obtain rfl := Except.ok.inj ((streamPart_none hf hn).symm.trans h)
    rfl
  | some p =>
    obtain ⟨b, s'⟩ := p
    rw [process_offer ((streamPart_byte hf hn).symm.trans h)]
    rcases nextByte_cases hn with ⟨q, -, -, -, rfl⟩ | ⟨-, hr, -, -⟩
    · rfl
    · exact absurd (hready.symm.trans hr) nofun

/-- Settles O31. A ready block processes the port's byte, the port emptied; else the stream part leaves the port. -/
theorem byteTakenExactlyWhenReady : Obligations.ByteTakenExactlyWhenReady := by
  unfold Obligations.ByteTakenExactlyWhenReady
  intro b s hfits
  obtain ⟨t, ht⟩ := exec_of_fits hfits (.streamByte b)
  obtain ⟨r, hr, rfl⟩ := exec_next ht
  refine ⟨inReady_iff s, _, ht, rfl, fun hready => ?_, fun hready => ?_⟩
  · exact (exec_streamByte_offer hready ht)
  · exact streamPart_offer_of_not_ready (s := s.presenting (.streamByte b)) hready hr

/-! ### Hunting (rules R175, R176) -/

/-- The discarded byte of a hunting block is counted, and is BAD_SYNC where the block was locked. -/
theorem exec_of_discarded {s : State} {b : Byte} (hready : s.inReady = true) (hidx : s.idx = 0)
    (hcand : ¬ s.Candidate b) :
    exec (.streamByte b) s =
      .next
        ((huntDiscard { s with offer := none } b).st.finish (huntDiscard { s with offer := none } b).ev false
          (s.outputs none)) :=
  exec_streamByte_of_process hready (process_discarded ((acceptsIntoFrame_eq_false_iff s b).mpr ⟨hidx, hcand⟩))

theorem huntDiscard_locked {s : State} (b : Byte) (h : s.locked = true) :
    huntDiscard s b =
      { raiseFault { s with cnt := s.cnt.bump .skipped } .malformedHeader .badSync b 0 [] with
        inc := [.skipped, .malformed] } := by
  simp only [huntDiscard, h, if_true]
  rfl

/-- Settles O32. The discard is written out for both values of LOCKED. -/
theorem huntDiscards : Obligations.HuntDiscards := by
  unfold Obligations.HuntDiscards
  intro b s hready hidx hcand
  rw [exec_of_discarded hready hidx hcand]
  refine ⟨fun hl => ?_, fun hl => ?_⟩
  · rw [huntDiscard_unlocked (s := { s with offer := none }) b hl, State.finish, mergeEvents_nothing]
    rfl
  · rw [huntDiscard_locked (s := { s with offer := none }) b hl, State.finish, raiseFault_ev, mergeEvents_no_busErr]
    rfl

/-! ### The last byte (rule R190) -/

/-- Equal checksums: the frame is accepted. -/
theorem lastByte_accepts {s : State} {b : Byte} (h : s.computedCk = s.receivedCk b) :
    lastByte s b =
      { st :=
          { s.memWrite b with
            ckComp := s.computedCk
            ckRecv := s.receivedCk b
            idx := s.hdr.flen
            ph := .complete
            locked := true
            cnt := s.cnt.bump .framesOk }
        ev := some .frameOk
        inc := [.framesOk] } := if_pos h

/-- Settles O38. The byte at L-1 is the compare's, which is written out for both outcomes. -/
theorem lastByteCompares : Obligations.LastByteCompares := by
  unfold Obligations.LastByteCompares
  intro b s hready h4 hlast hmax recv comp taken
  have htakes : s.Takes b := .of_started b hready (by bv_omega) (by omega)
  have hbyte := frameByte_last (s := { s with offer := none }) b h4 (by bv_omega)
  refine ⟨fun heq => ?_, fun hne => ?_⟩
  · have haccepts := hbyte.trans (lastByte_accepts (s := { s with offer := none }) heq)
    rw [htakes.exec_eq, State.afterByte, haccepts, State.finish, mergeEvents_no_busErr]
    rfl
  · have hqueue : taken.rq = [] := ((inReady_iff s).mp hready).2.1
    rw [hqueue]
    exact htakes.exec_of_raise (hbyte.trans (lastByte_fail (s := { s with offer := none }) hne)) rfl

end Sys2Proof.Machine

end

section
/-! PROOFS. A bus operation beside the idle step of the same state: what its bus part adds to the stream part (R171,
R221, R228). -/

namespace Sys2Proof.Machine

/-! ### A bus part on the state the stream part left (rule R171) -/

theorem clockEdge_of_part {rd : Option Addr} {bus : BusPart} {s u : State} {r : StreamResult} {e : Bool}
    (hr : streamPart s = .ok r) (h : bus r.inc r.st = (u, e)) :
    clockEdge rd bus s = .next (u.finish r.ev e (s.outputs rd)) := by
  rw [clockEdge_of_stream hr, h]

/-- BUS_ERR is bit 5, set beside what the step raises without it (rules R171, R251). -/
theorem mergeEvents_busErr (events : BitVec 6) (ev : Option StreamEvent) (e : Bool) :
    mergeEvents events ev e = mergeEvents events ev false ||| if e then 0x20 else 0 := by
  cases e <;> simp [mergeEvents, busErrBit]

theorem finish_busErr (s : State) (ev : Option StreamEvent) (e : Bool) (o : Outputs) :
    s.finish ev e o =
      { s.finish ev false o with events := (s.finish ev false o).events ||| if e then 0x20 else 0 } := by
  rw [State.finish, mergeEvents_busErr]
  rfl

/-- A bus part that refuses in the state the stream part left is the idle step with BUS_ERR. -/
theorem clockEdge_of_refused {bus : BusPart} {s : State} {r : StreamResult} (hr : streamPart s = .ok r)
    (h : bus r.inc r.st = refuseWrite r.st) :
    clockEdge none bus s =
      .next
        { r.st.finish r.ev false (s.outputs none) with
          events := (r.st.finish r.ev false (s.outputs none)).events ||| 0x20 } := by
  rw [clockEdge_of_part hr h, finish_busErr, if_pos rfl]

theorem busErrOnly_of_part {bus : BusPart} {s : State} (hfits : s.fits)
    (h : ∀ r, streamPart s = .ok r → bus r.inc r.st = refuseWrite r.st) : s.BusErrOnly (clockEdge none bus s) := by
  obtain ⟨r, hr⟩ := streamPart_of_fits hfits
  exact ⟨_, idleEdge_of_stream hr, clockEdge_of_refused hr (h r hr)⟩

/-! ### Which words take a write (rules R221, R228) -/

/-- The words that take a write while EN is `en`: CTRL, EVENTS, IRQ_EN, CMD and the dispatch table while it is not
locked. -/
inductive HostWord.TakesWrite (en : Bool) : HostWord → Prop where
  | ctrl : TakesWrite en .ctrl
  | events : TakesWrite en .events
  | irqEn : TakesWrite en .irqEn
  | cmd : TakesWrite en .cmd
  | lutSig (i : Fin 8) (unlocked : en ≠ true) : TakesWrite en (.lutSig i)
  | vdescCfg (v : Fin 5) (unlocked : en ≠ true) : TakesWrite en (.vdescCfg v)
  | vdescTmap (v : Fin 5) (unlocked : en ≠ true) : TakesWrite en (.vdescTmap v)

/-- Every other write is refused. -/
theorem writePart_refused {a : Addr} {s : State} (h : ¬ (hostWord a).TakesWrite s.en) (d : Word) (inc : List Counter) :
    writePart a d inc s = refuseWrite s := by
  unfold writePart
  generalize hostWord a = w at h ⊢
  cases w with
  | ctrl => exact absurd .ctrl h
  | events => exact absurd .events h
  | irqEn => exact absurd .irqEn h
  | cmd => exact absurd .cmd h
  | lutSig i => exact if_pos (not_not.mp fun hen => h (.lutSig i hen))
  | vdescCfg v => exact if_pos (not_not.mp fun hen => h (.vdescCfg v hen))
  | vdescTmap v => exact if_pos (not_not.mp fun hen => h (.vdescTmap v hen))
  | _ => rfl

/-- The lock is EN before the step, which no stream part changes. -/
theorem busErrOnly_of_not_takesWrite {a : Addr} {s : State} (hfits : s.fits) (h : ¬ (hostWord a).TakesWrite s.en)
    (d : Word) : s.BusErrOnly (exec (.csrWrite a d) s) :=
  busErrOnly_of_part hfits fun r hr => writePart_refused (by rwa [(streamPart_settings hr).en]) d r.inc

theorem singleRegister_takesWrite {w : Nat} {en : Bool} (h : (singleRegister w).TakesWrite en) :
    w = 0x004 ∨ w = 0x00C ∨ w = 0x010 ∨ w = 0x014 := by
  unfold singleRegister at h
  split at h
  case h_2 | h_4 | h_5 | h_6 => decide
  all_goals cases h

theorem vdescRegister_takesWrite {v : Fin 5} {k : Nat} {en : Bool} (h : (vdescRegister v k).TakesWrite en) :
    (k = 0 ∨ k = 4) ∧ en ≠ true := by
  unfold vdescRegister at h
  split at h
  next h0 => cases h with | vdescCfg _ hen => exact ⟨.inl h0, hen⟩
  split at h
  next h4 => cases h with | vdescTmap _ hen => exact ⟨.inr h4, hen⟩
  next => cases h

/-- The word addresses of the dispatch table (rule R23). -/
def tableWord (w : Nat) : Prop :=
  (0x100 ≤ w ∧ w < 0x120) ∨ (0x200 ≤ w ∧ w < 0x250 ∧ (w % 16 = 0 ∨ w % 16 = 4))

theorem hostWord_takesWrite {a : Addr} {w : Nat} {en : Bool} (hw : (a &&& 0x1FFFC).toNat = w)
    (h : (hostWord a).TakesWrite en) :
    (w = 0x004 ∨ w = 0x00C ∨ w = 0x010 ∨ w = 0x014) ∨ (tableWord w ∧ en ≠ true) := by
  unfold hostWord at h
  simp only [hw] at h
  split at h
  next => cases h
  split at h
  next hlut => cases h with | lutSig _ hen => exact .inr ⟨.inl hlut, hen⟩
  split at h
  next hvdesc =>
    obtain ⟨hk, hen⟩ := vdescRegister_takesWrite h
    exact .inr ⟨.inr ⟨hvdesc.1, hvdesc.2, by omega⟩, hen⟩
  next => exact .inl (singleRegister_takesWrite h)

/-- Settles O13. An address that is no writable register's, and in the table only while it is locked, takes no write. -/
theorem refusedWrites : Obligations.RefusedWrites := by
  unfold Obligations.RefusedWrites
  rintro a d s hfits w table ⟨h4, hC, h10, h14, htable⟩
  refine busErrOnly_of_not_takesWrite hfits (fun h => ?_) d
  rcases hostWord_takesWrite rfl h with hreg | ⟨hw, hen⟩
  · exact hreg.elim h4 (·.elim hC (·.elim h10 h14))
  · exact hen (htable hw)

end Sys2Proof.Machine

end

section
/-! PROOFS. The writes of CTRL, EVENTS and IRQ_EN, and the read (rules R220, R222 to R224). -/

namespace Sys2Proof.Machine

/-! ### The writable registers (rules R222 to R224) -/

theorem hostWord_of_wordAddress {a w : Addr} (h : a &&& 0x1FFFC = w) : hostWord a = hostWord w := by
  rw [← h, hostWord_wordAddress]

theorem writePart_ctrl {a : Addr} (h : a &&& 0x1FFFC = 0x00004) (d : Word) (inc : List Counter) (s : State) :
    writePart a d inc s = ctrlWrite s d := by
  have hw : hostWord a = .ctrl := hostWord_of_wordAddress h
  simp only [writePart, hw]

theorem writePart_events {a : Addr} (h : a &&& 0x1FFFC = 0x0000C) (d : Word) (inc : List Counter) (s : State) :
    writePart a d inc s = eventsWrite s d := by
  have hw : hostWord a = .events := hostWord_of_wordAddress h
  simp only [writePart, hw]

theorem writePart_irqEn {a : Addr} (h : a &&& 0x1FFFC = 0x00010) (d : Word) (inc : List Counter) (s : State) :
    writePart a d inc s = irqEnWrite s d := by
  have hw : hostWord a = .irqEn := hostWord_of_wordAddress h
  simp only [writePart, hw]

theorem getLsbD_evBit (ev : Option StreamEvent) {k : Nat} (hk : k < 6) :
    (evBit ev).getLsbD k = true ↔ ∃ e, ev = some e ∧ e.code.toNat = k := by
  cases ev with
  | none => simp [evBit]
  | some e =>
    have hcode : (1 <<< e.code.toNat : BitVec 6).getLsbD k = true ↔ e.code.toNat = k := by
      cases e <;> decide +revert
    simpa [evBit] using hcode

theorem getLsbD_clearEvents (events : BitVec 6) (d : Word) {k : Nat} (hk : k < 6) :
    (clearEvents events d).getLsbD k = true ↔ events.getLsbD k = true ∧ d.getLsbD k = false := by
  simp [clearEvents, hk]

/-- Settles O15. The written bits are cleared before the merge, which sets the step's event. -/
theorem eventsWriteOneToClear : Obligations.EventsWriteOneToClear := by
  unfold Obligations.EventsWriteOneToClear
  intro a d s ha hfits
  obtain ⟨r, hr⟩ := streamPart_of_fits hfits
  refine ⟨_, _, idleEdge_of_stream hr, clockEdge_of_part hr (writePart_events ha d r.inc r.st), rfl, fun k hk => ?_⟩
  rw [finish_events, mergeEvents_no_busErr, finish_evq, BitVec.getLsbD_or, Bool.or_eq_true, getLsbD_clearEvents _ d hk,
    getLsbD_evBit r.ev hk, (streamPart_settings hr).events]

theorem exec_irqEnWrite_of_stream {a : Addr} (ha : a &&& 0x1FFFC = 0x00010) (d : Word) {s : State} {r : StreamResult}
    (hr : streamPart s = .ok r) :
    exec (.csrWrite a d) s =
      .next { r.st.finish r.ev false (s.outputs none) with irqEn := d.extractLsb' 0 6 } :=
  clockEdge_of_part hr (writePart_irqEn ha d r.inc r.st)

/-- Settles O7. The read's bus part counts the read, and the word is recorded with the outputs. -/
theorem readHasNoSideEffect : Obligations.ReadHasNoSideEffect := by
  unfold Obligations.ReadHasNoSideEffect
  intro a s hfits
  obtain ⟨r, hr⟩ := streamPart_of_fits hfits
  rw [← (streamPart_settings hr).draws]
  exact ⟨_, idleEdge_of_stream hr, clockEdge_of_part (bus := readPart) hr rfl⟩

end Sys2Proof.Machine

namespace Sys2Proof.Machine.Settled

/-- Settles O14. The stream part ran with the old EN, and the write's bus part replaces it. -/
theorem ctrlWrite : Obligations.CtrlWrite := by
  unfold Obligations.CtrlWrite
  intro a d s ha hfits
  obtain ⟨r, hr⟩ := streamPart_of_fits hfits
  exact ⟨_, idleEdge_of_stream hr, clockEdge_of_part hr (writePart_ctrl ha d r.inc r.st)⟩

/-- Settles O16. The next operation's irq is a function of the state the write left. -/
theorem irqEnWrite : Obligations.IrqEnWrite := by
  unfold Obligations.IrqEnWrite
  intro a d s ha hfits
  obtain ⟨r, hr⟩ := streamPart_of_fits hfits
  have hwrite := exec_irqEnWrite_of_stream ha d hr
  refine ⟨_, idleEdge_of_stream hr, hwrite, fun i u v hu hv => ?_⟩
  obtain ⟨-, -, hirq, -⟩ := mooreOutputs i u v hv
  obtain rfl := Host.Outcome.next.inj (hwrite.symm.trans hu)
  rw [hirq]
  refine exists_congr fun k => and_congr_right fun hk => ?_
  simp [hk]

end Sys2Proof.Machine.Settled

end

section
/-! PROOFS. The reserved CMD words, and the commands NOP, ABORT, RELEASE and CLR_COUNTERS (rules R229 to R234). -/

namespace Sys2Proof.Machine

/-! ### The reserved CMD words (rules R95, R234) -/

theorem commandPart_of_mbz {d : Word} (h : d.extractLsb' 16 16 ≠ 0) : commandPart d = fun _ => refuseWrite :=
  funext fun _ => funext fun _ => if_pos h

/-- The opcodes of the map are 0 to 3, 0x10 and 0x11 (rule R94). -/
theorem commandPart_of_unknown_op {d : Word} (h3 : 3 < (d.extractLsb' 0 8).toNat)
    (h10 : (d.extractLsb' 0 8).toNat ≠ 0x10) (h11 : (d.extractLsb' 0 8).toNat ≠ 0x11) :
    commandPart d = fun _ => refuseWrite := by
  have hne : d.extractLsb' 0 8 ≠ 0x00 ∧ d.extractLsb' 0 8 ≠ 0x01 ∧ d.extractLsb' 0 8 ≠ 0x02 ∧
      d.extractLsb' 0 8 ≠ 0x03 ∧ d.extractLsb' 0 8 ≠ 0x10 ∧ d.extractLsb' 0 8 ≠ 0x11 := by
    generalize d.extractLsb' 0 8 = op at h3 h10 h11
    bv_omega
  funext inc s
  simp only [commandPart, hne, if_false, ite_self]

/-- NOP, ABORT, RELEASE and CLR_COUNTERS take no ARG (rule R229). -/
theorem commandPart_of_argument {d : Word} (hop : (d.extractLsb' 0 8).toNat ≤ 3) (harg : d.extractLsb' 8 8 ≠ 0) :
    commandPart d = fun _ => refuseWrite := by
  have hcases : d.extractLsb' 0 8 = 0x00 ∨ d.extractLsb' 0 8 = 0x01 ∨ d.extractLsb' 0 8 = 0x02 ∨
      d.extractLsb' 0 8 = 0x03 := by
    generalize d.extractLsb' 0 8 = op at hop
    bv_omega
  funext inc s
  rcases hcases with h | h | h | h <;>
    simp only [commandPart, h, harg, ne_eq, not_false_eq_true, if_true, ite_self]

/-- The bits above OP are MBZ and ARG (rule R93). -/
theorem upper_bits (d : Word) : d.extractLsb' 8 24 = d.extractLsb' 16 16 ++ d.extractLsb' 8 8 := by
  have happend : d.extractLsb' 16 16 ++ d.extractLsb' 8 8 = d.extractLsb' 8 24 :=
    BitVec.extractLsb'_append_extractLsb'_eq_extractLsb' rfl
  exact happend.symm

/-- The word of NOP, ABORT, RELEASE or CLR_COUNTERS with a nonzero ARG or MBZ is refused. -/
theorem busErrOnly_of_argument {a : Addr} {d : Word} {s : State} {op : Byte} (hop3 : op.toNat ≤ 3) (hfits : s.fits)
    (ha : addressesCmd a = true) (hop : d.extractLsb' 0 8 = op) (h : d.extractLsb' 8 24 ≠ 0) :
    s.BusErrOnly (exec (.csrWrite a d) s) := by
  refine busErrOnly_of_refused hfits ((writePart_cmd ha d).trans ?_)
  by_cases hmbz : d.extractLsb' 16 16 = 0
  · refine commandPart_of_argument (by rwa [hop]) fun harg => h ?_
    rw [upper_bits, hmbz, harg]
    rfl
  · exact commandPart_of_mbz hmbz

/-- Settles O20. Each class of reserved words is refused, and CK_INIT's code 3 has no algorithm. -/
theorem reservedCommandWords : Obligations.ReservedCommandWords := by
  unfold Obligations.ReservedCommandWords
  intro a d s ha hfits op arg
  refine ⟨fun h => ?_, busErrOnly_of_part (bus := ckInitPart 3) hfits fun _ _ => rfl⟩
  refine busErrOnly_of_refused hfits ((writePart_cmd ha d).trans ?_)
  rcases h with hmbz | ⟨h3, h10, h11⟩ | ⟨h3, harg⟩ | ⟨hop, halg⟩
  · exact commandPart_of_mbz hmbz
  · exact commandPart_of_unknown_op h3 h10 h11
  · exact commandPart_of_argument h3 harg
  · have hlow : arg.extractLsb' 0 2 = d.extractLsb' 8 2 := extract_of_extract d (by omega)
    have hhigh : arg.extractLsb' 2 6 = (d.extractLsb' 10 22).extractLsb' 0 6 := by
      rw [extract_of_extract d (by omega), extract_of_extract d (by omega)]
    refine commandPart_ckInit_refused (BitVec.eq_of_toNat_eq hop) (halg.imp hlow.symm.trans fun hne hzero => hne ?_)
    rw [hhigh, hzero]
    rfl

/-! ### The commands beside the idle step (rules R230 to R233) -/

/-- Settles O21. NOP's bus part is that of no bus access. -/
theorem nopEffect : Obligations.NopEffect := by
  unfold Obligations.NopEffect
  intro s hfits
  obtain ⟨r, hr⟩ := streamPart_of_fits hfits
  exact ⟨⟨_, idleEdge_of_stream hr, idleEdge_of_stream hr⟩, fun a d => busErrOnly_of_argument (by decide) hfits⟩

/-- Settles O22. Neither the phase nor EN is asked for. -/
theorem abortEffect : Obligations.AbortEffect := by
  unfold Obligations.AbortEffect
  intro s hfits
  obtain ⟨r, hr⟩ := streamPart_of_fits hfits
  exact ⟨⟨_, idleEdge_of_stream hr, clockEdge_of_part (bus := abortPart) hr rfl⟩,
    fun a d => busErrOnly_of_argument (by decide) hfits⟩

theorem exec_release_of_complete {s : State} {r : StreamResult} (hr : streamPart s = .ok r) (h : r.st.ph = .complete) :
    exec .release s = .next { r.st.finish r.ev false (s.outputs none) with ph := .awaitingHeader, idx := 0 } :=
  clockEdge_of_part (bus := releasePart) hr (if_pos h)

theorem exec_release_of_not_complete {s : State} {r : StreamResult} (hr : streamPart s = .ok r)
    (h : r.st.ph ≠ .complete) :
    exec .release s =
      .next
        { r.st.finish r.ev false (s.outputs none) with
          events := (r.st.finish r.ev false (s.outputs none)).events ||| 0x20 } :=
  clockEdge_of_refused (bus := releasePart) hr (if_neg h)

/-- Settles O23. Both outcomes are those of the phase the stream part left. -/
theorem releaseEffect : Obligations.ReleaseEffect := by
  unfold Obligations.ReleaseEffect
  intro s hfits
  obtain ⟨r, hr⟩ := streamPart_of_fits hfits
  exact ⟨⟨_, idleEdge_of_stream hr, exec_release_of_complete hr, exec_release_of_not_complete hr⟩,
    fun a d => busErrOnly_of_argument (by decide) hfits⟩

/-- Settles O24. In Complete the stream part does nothing. -/
theorem releaseFromComplete : Obligations.ReleaseFromComplete := by
  unfold Obligations.ReleaseFromComplete
  intro s hc
  rw [exec_release_of_complete (streamPart_of_quiet (quiet_of_complete hc)) hc, State.finish, quiet_st, quiet_ev,
    mergeEvents_nothing]

/-- One event and at most one discarded byte: no counter is incremented twice, so those that changed are those that
CLR_COUNTERS leaves at 1. -/
theorem StreamResult.Counts.clear {s : State} {r : StreamResult} {first : List Counter} (h : r.Counts s first)
    (hfirst : first = [] ∨ first = [.skipped]) :
    Counters.clear r.inc =
      { framesOk := if r.st.cnt.framesOk = s.cnt.framesOk then 0 else 1
        cksumErr := if r.st.cnt.cksumErr = s.cnt.cksumErr then 0 else 1
        malformed := if r.st.cnt.malformed = s.cnt.malformed then 0 else 1
        unknown := if r.st.cnt.unknown = s.cnt.unknown then 0 else 1
        skipped := if r.st.cnt.skipped = s.cnt.skipped then 0 else 1 } := by
  rw [h.cnt, h.inc]
  rcases hfirst with rfl | rfl <;> rcases r.ev with _ | _ | _ | _ | _ <;>
    simp [StreamEvent.counter, Counters.bump, Counters.clear]

/-- Settles O25. The counters the bus part is told of are those the stream part changed. -/
theorem clrCountersEffect : Obligations.ClrCountersEffect := by
  unfold Obligations.ClrCountersEffect
  intro s hfits
  obtain ⟨r, hr⟩ := streamPart_of_fits hfits
  refine ⟨⟨_, idleEdge_of_stream hr, ?_⟩, fun a d => busErrOnly_of_argument (by decide) hfits⟩
  obtain ⟨first, hfirst, hcounts⟩ : ∃ first, (first = [] ∨ first = [.skipped]) ∧ r.Counts s first := by
    rcases streamPart_counts hr with ⟨-, hc⟩ | ⟨-, hc⟩
    · exact ⟨_, .inr rfl, hc⟩
    · exact ⟨_, .inl rfl, hc⟩
  rw [finish_cnt, ← hcounts.clear hfirst]
  exact clockEdge_of_part (bus := clrCountersPart) hr rfl

end Sys2Proof.Machine

end

section
/-! PROOFS. The writes of the dispatch table: the word stored, the illegal fields kept, and the lock (rules R47, R225 to
R227). -/

namespace Sys2Proof.Machine

/-! ### The fields of a written word (rules R42, R43) -/

/-- Two fields side by side are one field. -/
theorem field_append {m n : Nat} (k : Nat) (hi : BitVec m) (lo : BitVec n) :
    field k (hi ++ lo) = field k lo ||| field (k + n) hi := by
  apply BitVec.eq_of_getLsbD_eq
  intro i hi32
  rw [BitVec.getLsbD_or, getLsbD_field k i _ hi32, getLsbD_field k i _ hi32, getLsbD_field (k + n) i _ hi32,
    BitVec.getLsbD_append]
  by_cases hlow : i - k < n
  · simp [hlow, show ¬ k + n ≤ i by omega]
  · simp [hlow, BitVec.getLsbD_of_ge lo (i - k) (by omega), Nat.sub_sub, show k + n ≤ i ↔ k ≤ i by omega]

theorem or_reverse_three (u v w : Word) : u ||| v ||| w = w ||| v ||| u := by ac_rfl

theorem or_reverse_five (u v w x y : Word) : u ||| v ||| w ||| x ||| y = y ||| x ||| w ||| v ||| u := by ac_rfl

theorem ofBool_getLsbD (d : Word) (k : Nat) : BitVec.ofBool (d.getLsbD k) = d.extractLsb' k 1 := by
  apply BitVec.eq_of_getLsbD_eq
  intro i hi
  obtain rfl : i = 0 := by omega
  simp

/-- The bits 31:8 of a written word are one field of 8 bits and one of 16. -/
theorem field_upper_bits (d : Word) :
    field 8 (d.extractLsb' 8 24) = field 8 (d.extractLsb' 8 8) ||| field 16 (d.extractLsb' 16 16) := by
  rw [upper_bits, field_append]

/-! ### The legal values (rule R47) -/

theorem warl5_getD (c : BitVec 3) (old : Fin 5) :
    BitVec.ofNat 3 ((warl5 c).getD old).val = if 4 < c then BitVec.ofNat 3 old.val else c := by
  decide +revert

theorem warl5_isNone (c : BitVec 3) : (warl5 c).isNone = decide (4 < c) := by
  decide +revert

theorem warl3_getD (c : BitVec 2) (old : Fin 3) :
    BitVec.ofNat 2 ((warl3 c).getD old).val = if c = 3 then BitVec.ofNat 2 old.val else c := by
  decide +revert

theorem warl3_isNone (c : BitVec 2) : (warl3 c).isNone = decide (c = 3) := by
  decide +revert

theorem ckAlgOfCode_getD (c : BitVec 2) (old : CkAlg) :
    ((ckAlgOfCode c).getD old).code = if c = 3 then old.code else c := by
  cases old <;> decide +revert

theorem ckAlgOfCode_isNone (c : BitVec 2) : (ckAlgOfCode c).isNone = decide (c = 3) := by
  decide +revert

/-- VDESC_CFG has three fields with an illegal code, the code 3 of each. -/
theorem vcfg_written_illegal (old : VariantCfg) (d : Word) :
    (old.written d).2 =
      decide (d.extractLsb' 0 2 = 3 ∨ d.extractLsb' 2 2 = 3 ∨ d.extractLsb' 4 2 = 3) := by
  rw [VariantCfg.written]
  simp only [ckAlgOfCode_isNone, warl3_isNone, Bool.decide_or, Bool.or_assoc]

/-! ### The words stored (rules R225, R226) -/

theorem lutWord_variant (e : LutEntry) : e.toWord.extractLsb' 1 3 = BitVec.ofNat 3 e.variant.val := by
  rw [lutWord_eq]
  simp [BitVec.extractLsb'_or]

/-- The word of a written LUT entry: the written one, but for an illegal VARIANT, which keeps its old value. -/
theorem lutWord_written (old : LutEntry) (d : Word) :
    (old.written d).1.toWord =
      field 8 (d.extractLsb' 8 24) |||
        field 1 (if 4 < d.extractLsb' 1 3 then old.toWord.extractLsb' 1 3 else d.extractLsb' 1 3) |||
        (d.extractLsb' 0 1).setWidth 32 := by
  rw [lutWord_eq, BitVec.or_assoc, LutEntry.written, lutWord_variant, setWidth_eq_field]
  dsimp only
  rw [warl5_getD, ofBool_getLsbD, ← field_upper_bits, or_reverse_three]

theorem vcfgWord_alg (c : VariantCfg) : c.toWord.extractLsb' 0 2 = c.alg.code := by
  rw [vcfgWord_eq]
  simp [BitVec.extractLsb'_or]

theorem vcfgWord_frac (c : VariantCfg) : c.toWord.extractLsb' 2 2 = BitVec.ofNat 2 c.frac.val := by
  rw [vcfgWord_eq]
  simp [BitVec.extractLsb'_or]

theorem vcfgWord_foot (c : VariantCfg) : c.toWord.extractLsb' 4 2 = BitVec.ofNat 2 c.foot.val := by
  rw [vcfgWord_eq]
  simp [BitVec.extractLsb'_or]

/-- The two bits of a WARL field of 2 bits after a write: those written, but the old ones where the code is 3. -/
def keptField (old d : Word) (lo : Nat) : BitVec 2 :=
  if d.extractLsb' lo 2 = 3 then old.extractLsb' lo 2 else d.extractLsb' lo 2

/-- The word of written variant parameters: the written one, but for each field of code 3, which keeps its old value. -/
theorem vcfgWord_written (old : VariantCfg) (d : Word) :
    (old.written d).1.toWord =
      field 8 (d.extractLsb' 8 24) ||| field 6 (d.extractLsb' 6 1) ||| field 4 (keptField old.toWord d 4) |||
        field 2 (keptField old.toWord d 2) ||| (keptField old.toWord d 0).setWidth 32 := by
  rw [vcfgWord_eq, BitVec.or_assoc, VariantCfg.written, keptField, keptField, keptField, vcfgWord_alg, vcfgWord_frac,
    vcfgWord_foot, setWidth_eq_field]
  dsimp only
  rw [warl3_getD, warl3_getD, ckAlgOfCode_getD, ofBool_getLsbD, ← field_upper_bits, or_reverse_five]

/-! ### The unlocked writes (rules R225 to R227) -/

theorem writePart_lutSig {a : Addr} {i : Fin 8} (ha : hostWord a = .lutSig i) {s : State} (hen : s.en = false) (d : Word)
    (inc : List Counter) :
    writePart a d inc s = ({ s with lut := s.lut.set i (s.lut[i].written d).1 }, (s.lut[i].written d).2) := by
  simp only [writePart, ha, lutWrite, hen]
  rfl

theorem writePart_vdescCfg {a : Addr} {v : Fin 5} (ha : hostWord a = .vdescCfg v) {s : State} (hen : s.en = false)
    (d : Word) (inc : List Counter) :
    writePart a d inc s = ({ s with vcfg := s.vcfg.set v (s.vcfg[v].written d).1 }, (s.vcfg[v].written d).2) := by
  simp only [writePart, ha, vcfgWrite, hen]
  rfl

theorem writePart_vdescTmap {a : Addr} {v : Fin 5} (ha : hostWord a = .vdescTmap v) {s : State} (hen : s.en = false)
    (d : Word) (inc : List Counter) : writePart a d inc s = ({ s with vtmap := s.vtmap.set v d }, false) := by
  simp only [writePart, ha, vtmapWrite, hen]
  rfl

/-- While EN = 1 a word of the dispatch table refuses the write. -/
theorem busErrOnly_of_locked {a : Addr} {w : HostWord} {s : State} (hfits : s.fits) (ha : hostWord a = w)
    (hw : ¬ w.TakesWrite true) (d : Word) (hen : s.en = true) : s.BusErrOnly (exec (.csrWrite a d) s) :=
  busErrOnly_of_not_takesWrite hfits (by rwa [ha, hen]) d

theorem set_getElem_same {α : Type} {n : Nat} (xs : Vector α n) (i : Fin n) (x : α) : (xs.set i x)[i] = x :=
  Vector.getElem_set_self i.isLt

theorem set_getElem_other {α : Type} {n : Nat} (xs : Vector α n) {i j : Fin n} (x : α) (h : j ≠ i) :
    (xs.set i x)[j] = xs[j] :=
  Vector.getElem_set_ne _ _ fun hij => h (Fin.ext hij.symm)

/-- Settles O17. The entry stored is the written one of the entry before the step, which no stream part changes. -/
theorem lutSigWrite : Obligations.LutSigWrite := by
  unfold Obligations.LutSigWrite
  intro i d s hfits a var err
  have ha : hostWord a = .lutSig i := hostWord_lutSig i
  refine ⟨busErrOnly_of_locked hfits ha (fun | .lutSig _ unlocked => unlocked rfl) d, fun hen => ?_⟩
  obtain ⟨r, hr⟩ := streamPart_of_fits hfits
  have hset := streamPart_settings hr
  have hpart := writePart_lutSig ha (hset.en.trans hen) d r.inc
  have herr : (s.lut[i].written d).2 = decide (4 < d.extractLsb' 1 3) := warl5_isNone _
  rw [hset.lut, herr] at hpart
  refine ⟨_, _, idleEdge_of_stream hr, clockEdge_of_part hr hpart, ?_, fun j hj => set_getElem_other s.lut _ hj, ?_⟩
  · rw [finish_busErr]
    simp only [decide_eq_true_eq]
    rfl
  · rw [rdata_lutSig, finish_lut, set_getElem_same, lutWord_written, ← rdata_lutSig]
    rfl

/-- Settles O18. Each of the three fields with an illegal code is kept on its own, and any of them sets BUS_ERR. -/
theorem vdescCfgWrite : Obligations.VdescCfgWrite := by
  unfold Obligations.VdescCfgWrite
  intro v d s hfits a old kept err
  have ha : hostWord a = .vdescCfg v := hostWord_vdescCfg v
  refine ⟨busErrOnly_of_locked hfits ha (fun | .vdescCfg _ unlocked => unlocked rfl) d, fun hen => ?_⟩
  obtain ⟨r, hr⟩ := streamPart_of_fits hfits
  have hset := streamPart_settings hr
  have hpart := writePart_vdescCfg ha (hset.en.trans hen) d r.inc
  rw [hset.vcfg, vcfg_written_illegal] at hpart
  refine ⟨_, _, idleEdge_of_stream hr, clockEdge_of_part hr hpart, ?_, fun w hw => set_getElem_other s.vcfg _ hw, ?_⟩
  · rw [finish_busErr]
    simp only [decide_eq_true_eq]
    rfl
  · rw [rdata_vdescCfg, finish_vcfg, set_getElem_same, vcfgWord_written, ← rdata_vdescCfg]
    rfl

/-- Settles O19. The type map takes any word. -/
theorem vdescTmapWrite : Obligations.VdescTmapWrite := by
  unfold Obligations.VdescTmapWrite
  intro v d s hfits a
  have ha : hostWord a = .vdescTmap v := hostWord_vdescTmap v
  refine ⟨busErrOnly_of_locked hfits ha (fun | .vdescTmap _ unlocked => unlocked rfl) d, fun hen => ?_⟩
  obtain ⟨r, hr⟩ := streamPart_of_fits hfits
  have hset := streamPart_settings hr
  have hpart := writePart_vdescTmap ha (hset.en.trans hen) d r.inc
  rw [hset.vtmap] at hpart
  exact ⟨_, _, idleEdge_of_stream hr, clockEdge_of_part hr hpart, rfl, set_getElem_same s.vtmap v d,
    fun w hw => set_getElem_other s.vtmap d hw⟩

end Sys2Proof.Machine

end

section
/-! PROOFS. Which operations raise BUS_ERR (rule R258). -/

namespace Sys2Proof.Machine

/-- BUS_ERR is no stream event's bit (rule R251): after the merge it is set where it was, or where the bus part raises
it. -/
theorem mergeEvents_five (events : BitVec 6) (ev : Option StreamEvent) (e : Bool) :
    (mergeEvents events ev e).getLsbD 5 = true ↔ events.getLsbD 5 = true ∨ e = true := by
  have hev : (evBit ev).getLsbD 5 = false := by
    rcases ev with _ | _ | _ | _ | _ <;> rfl
  have hbus : (busErrBit e).getLsbD 5 = e := by
    cases e <;> rfl
  simp only [mergeEvents, BitVec.getLsbD_or, hev, hbus, Bool.or_false, Bool.or_eq_true]

/-- CK_INIT is refused with the reserved code alone (rule R125). -/
theorem ckInitPart_busErr (c : BitVec 2) (inc : List Counter) (s : State) :
    (ckInitPart c inc s).2 = true ↔ c = 3 := by
  have hnone := ckAlgOfCode_isNone c
  unfold ckInitPart
  cases halg : ckAlgOfCode c with
  | none => simpa [halg, refuseWrite] using hnone
  | some alg => simpa [halg] using hnone

/-- The bus parts that may refuse (rule R258). -/
theorem busOf_busErr {i : Instr} {inc : List Counter} {s : State} (h : ((busOf i).2 inc s).2 = true) :
    (∃ a d, i = .csrWrite a d) ∨ i = .release ∨ i = .ckInit 3 := by
  cases i with
  | csrWrite a d => exact .inl ⟨a, d, rfl⟩
  | release => exact .inr (.inl rfl)
  | ckInit c => exact .inr (.inr (congrArg Instr.ckInit ((ckInitPart_busErr c inc s).mp h)))
  | _ => cases h

/-- Settles O46. No stream part touches EVENTS and no bus part sets a bit of it, so the step's end sets BUS_ERR, and
only where the operation's bus part refuses. -/
theorem busErrOnlyFromWriteReleaseOrCkInit3 : Obligations.BusErrOnlyFromWriteReleaseOrCkInit3 := by
  unfold Obligations.BusErrOnlyFromWriteReleaseOrCkInit3
  intro i s t he hclear hraised
  obtain ⟨r, hr, rfl⟩ := exec_next he
  have hset : s.SameSettings r.st := (presenting_settings s i).trans (streamPart_settings hr)
  have hbus : ((busOf i).2 r.inc r.st).1.events.getLsbD 5 = false :=
    (busOf_addsNothing i r.inc r.st).events 5 (by rw [hset.events, hclear])
  rw [finish_events, mergeEvents_five, hbus] at hraised
  exact busOf_busErr (hraised.resolve_left nofun)

end Sys2Proof.Machine

end

section
/-! PROOFS. The reset step (rules R280, R281, R283; logs 2, 14). -/

namespace Sys2Proof.Machine

/-- Settling the offer touches no field but the offer: a byte waits where the source holds it. -/
theorem settleOffer_eq_ite (s : State) (hold : Bool) :
    s.settleOffer hold = { s with offer := if hold then s.offer else none } := by
  cases hold <;> rfl

/-- A line with rst = 1 runs the reset edge, whatever its ports carry. -/
theorem stepLine_of_rst {l : Line} (hr : l.rst = true) (s : State) :
    stepLine l s = .next ((resetEdge s).settleOffer l.hold) := by
  simp only [stepLine, hr, if_true, settleOutcome]

/-- Settles O6. The line's inputs are taken from the script, the reset edge drops every field of the block, and the byte
the line offers waits on if the source holds it. -/
theorem resetStep : Obligations.ResetStep := by
  unfold Obligations.ResetStep
  intro s l rest ho hs hr
  rw [step_of_line ho hs, stepLine_of_rst hr, settleOffer_eq_ite]
  rfl

end Sys2Proof.Machine

end
